-- ==== Sys2Proof/Word.lean ====
section
/-! DEFINITION. The names and widths of spec/00_scope.md section 4: cards, ports, uplinks, groups, members, slots, bytes and
16-bit counts. Bit vectors stand only for what a pin or a reader sees as a word. -/

namespace Sys2Proof

/-- One byte as it passes a pin, most significant bit first (spec/12_formats.md). -/
abbrev Byte := BitVec 8

/-- A 16-bit counter or count (spec/00_scope.md section 6). -/
abbrev Count16 := BitVec 16

/-- A local port, 0 to 7. -/
abbrev Port := Fin 8

/-- A card id, 0 to 15. -/
abbrev CardId := Fin 16

/-- An uplink number, 0 to 127. -/
abbrev Uplink := Fin 128

/-- A protection group number, 0 to 1023. -/
abbrev GroupNo := Fin 1024

/-- A member index of a group, 0 to 7. -/
abbrev MemberIdx := Fin 8

/-- A slot of a spread, 0 to 63. -/
abbrev Slot := Fin 64

/-- The same vector with place `i` replaced. -/
def setAt {α : Type} {n : Nat} (v : Vector α n) (i : Fin n) (x : α) : Vector α n :=
  v.set i.val x i.isLt

/-- Uplink number 8 × card + port (spec/00_scope.md section 6). -/
def uplinkOf (c : CardId) (p : Port) : Uplink := ⟨8 * c.val + p.val, by omega⟩

/-- The card of an uplink, floor(u / 8) (spec/03_the_uplink_view.md section 3.1). -/
def cardOf (u : Uplink) : CardId := ⟨u.val / 8, by omega⟩

/-- The port of an uplink, u mod 8 (spec/03_the_uplink_view.md section 3.1). -/
def portOf (u : Uplink) : Port := ⟨u.val % 8, by omega⟩

end Sys2Proof
end

