-- ==== Sys2Proof/Config.lean ====
section
/-! DEFINITION. What the part fixes: the figures of spec/00_scope.md section 4, the command bytes of spec/12_formats.md section
12.4, and the three free values, `Config.freeByte`, `Config.ignoredByte` and `Config.namedOrder`, which the manual leaves open. -/

namespace Sys2Proof.Config

/-- FREE VALUE (logs 15 and 16): the n-th byte of response bits that are in no field, or whose field is absent in the state reported.
Nothing is known of it. -/
opaque freeByte : Nat → Byte

/-- FREE VALUE (log 16): the n-th byte shifted out in an ignored chip select, with so many free bytes used before. Nothing is known of
it. -/
opaque ignoredByte : Nat → Nat → Byte

/-- FREE VALUE (log 8): whether the n-th pair of effects that the manual leaves in either order comes in the order named at the place
of use. Nothing is known of it. -/
opaque namedOrder : Nat → Bool

/-- The mute time of R62, 8 ms, in µs. -/
def muteTime : Nat := 8000

/-- The limit of R169 on the read of the configuration image, 50 ms, in µs. -/
def loadLimit : Nat := 50000

/-- Consecutive aborts before MUTED (R62). -/
def abortLimit : Nat := 16

/-- A dominant stretch of more than this many bit times is a stuck line (R64). -/
def stuckLimit : Nat := 64

/-- The idle count at which a controller may drive a start of its own (R58), and the count that ends FAULT (R65). -/
def idleGap : Nat := 11

/-- The idle count from which a receiver takes a start edge (R53). -/
def startGap : Nat := 10

/-- The bits of a frame after its start bit (R51). -/
def frameLength : Nat := 48

/-- The bound of the penalty figure (R19). -/
def penaltyMax : Nat := 8191

/-- The places of the pending pool (R148). -/
def poolPlaces : Nat := 16

/-- The requests that may be outstanding (R127). -/
def queuePlaces : Nat := 16

/-- The places of the journal ring (R160). -/
def ringPlaces : Nat := 64

/-- The number of uncommitted records that forces a commit (R162). -/
def forcedCommit : Nat := 32

/-- The bound at which the counts of an episode and of its record saturate (R123, R124). -/
def countMax : Nat := 65535

/-- The bytes of the configuration image (spec/12_formats.md section 12.5). -/
def imageBytes : Nat := 27

/-- The magic value of the configuration image. -/
def magic : BitVec 16 := 0xD224#16

/-- The command bytes of the table port (spec/12_formats.md section 12.4). -/
def commandBytes : List Byte :=
  [0x01#8, 0x10#8, 0x11#8, 0x12#8, 0x18#8, 0x19#8, 0x20#8, 0x21#8, 0x22#8, 0x23#8, 0x24#8, 0x25#8, 0x30#8, 0x31#8, 0x3F#8]

end Sys2Proof.Config
end

