-- ==== Sys2Proof/Syntax.lean ====
section
/-! DEFINITION. The commands of the block: one constructor for each row of spec/opcode_table.json, with the row's operands.
Operands of the table port are the argument bytes as they are shifted in (spec/12_formats.md section 12.4), so that the
bits a command ignores (R179) are there to be ignored. -/

namespace Sys2Proof

/-- What the Start-up Loader's read of the two-wire ROM gave (R169, spec/12_formats.md section 12.5). -/
inductive RomRead where
  /-- Some transfer of the read was not acknowledged. -/
  | noAck
  /-- The read ran to its stop condition with these bytes, first byte first. -/
  | image (bytes : List Byte)
  deriving DecidableEq, Repr

/-- When the snapshot of a walk's reconcile was taken (R93, R115; log 10). -/
inductive SnapshotTime where
  /-- When the walk came to the group: at the taking of its entry or at the group boundary before. -/
  | early
  /-- Just before the replacement of the group's fields. -/
  | late
  deriving DecidableEq, Repr

/-- What CHIP_SELECT_RELEASE brings: the CARD_ID strap levels, sampled if the release performs a warm reset, and whether chip select is
asserted again at once, before any command byte is complete (R142; log 14). -/
structure Deselect where
  straps : CardId
  again : Bool
  deriving DecidableEq, Repr

/-- The commands of the block, in the order of spec/opcode_table.json. -/
inductive Instr where
  /-- LIGHT_FALL (R5, R9): the light line of port `p` goes from present to absent. -/
  | lightFall (p : Port)
  /-- LIGHT_RISE (R6, R8): the light line of port `p` goes from absent to present. -/
  | lightRise (p : Port)
  /-- LOSS_TIMER_EXPIRY (R7). -/
  | lossTimerExpiry (p : Port)
  /-- RETURN_TIMER_EXPIRY (R10). -/
  | returnTimerExpiry (p : Port)
  /-- DECAY_TICK (R22 to R24). -/
  | decayTick
  /-- ADMISSION_DEADLINE (R33). -/
  | admissionDeadline (u : Uplink)
  /-- PRESENCE_DEADLINE (R43). -/
  | presenceDeadline (c : CardId)
  /-- FRAME_RECEIVED (R53 to R61): outside a frame, a start edge comes after `gap` more recessive bit times; `bits` are the bits that the
  line shows next, in their order: all 48 after the start bit for a frame taken whole in one step, or a part, which is held as the
  progress of the frame; in a frame of this chip they are what it reads back (R52, log 12). -/
  | frameReceived (gap : Nat) (bits : List Bool)
  /-- FRAME_START (R58, R77, R78): the line has been recessive for `gap` more bit times, and `edge` says whether another
  chip's start edge is taken now. -/
  | frameStart (gap : Nat) (edge : Bool)
  /-- ARBITRATION_LOST (R59). -/
  | arbitrationLost
  /-- ABORT (R60, R62). -/
  | abort
  /-- FRAME_COMPLETE (R61, R81). -/
  | frameComplete
  /-- MUTE_TIMER_EXPIRY (R63). -/
  | muteTimerExpiry
  /-- BEACON_TIMER_EXPIRY (R73). -/
  | beaconTimerExpiry
  /-- STUCK_LINE (R64): a dominant stretch of `stretch` bit times; `receiving` says whether it falls in a frame of another chip
  that began after the commands before this one (log 12). -/
  | stuckLine (stretch : Nat) (receiving : Bool)
  /-- FAULT_RECOVERY (R65): `recessive` recessive bit times without a break. -/
  | faultRecovery (recessive : Nat)
  /-- ARBITER_TAKE (R112, R113). -/
  | arbiterTake
  /-- RECONCILE (R115): the reconcile of the running walk's group completes. -/
  | reconcile (snapshot : SnapshotTime)
  /-- INSTALLATION (R119). -/
  | installation
  /-- SETTLE_DEADLINE (R124). -/
  | settleDeadline
  /-- LOOKUP_REQUEST (R127): the 34-bit word offered on the request channel. -/
  | lookupRequest (word : BitVec 34)
  /-- ANSWER (R130): the forwarding chip takes a message and it is an ANSWER. -/
  | answer
  /-- DROP_UPLINK (R134). -/
  | dropUplink
  /-- DROP_GROUP (R135). -/
  | dropGroup
  /-- DROP_ALL (R136). -/
  | dropAll
  /-- STATUS (R154). -/
  | status
  /-- STAGE_CLEAR (R145). -/
  | stageClear
  /-- STAGE_MEMBER (R146). -/
  | stageMember (b0 b1 : Byte)
  /-- STAGE_OPTIONS (R147). -/
  | stageOptions (b0 b1 : Byte)
  /-- COMMIT (R149). -/
  | commit (b0 b1 : Byte)
  /-- RELEASE (R150). -/
  | release (b0 b1 : Byte)
  /-- READ_GROUP (R104, R151). -/
  | readGroup (b0 b1 : Byte)
  /-- READ_SPREAD (R104, R151). -/
  | readSpread (b0 b1 : Byte)
  /-- READ_VIEW (R152). -/
  | readView (b0 : Byte)
  /-- READ_CARDS (R152). -/
  | readCards
  /-- READ_JOURNAL (R153, R164). -/
  | readJournal (b0 : Byte)
  /-- READ_COUNTERS (R153). -/
  | readCounters
  /-- DRAIN (R155). -/
  | drain
  /-- UNDRAIN (R156). -/
  | undrain
  /-- WARM_RESET (R157). -/
  | warmReset
  /-- UNKNOWN_COMMAND (R144): a command byte that names no command. -/
  | unknownCommand (byte : Byte)
  /-- CHIP_SELECT_RELEASE (R142, R157). -/
  | chipSelectRelease (release : Deselect)
  /-- POWER_UP (R168): `straps` are sampled if no reset line is asserted. -/
  | powerUp (straps : CardId)
  /-- RESET_N_ASSERTED (R168). -/
  | resetNAsserted
  /-- RESET_N_RELEASED (R169): `straps` are sampled if WARM_N is not asserted. -/
  | resetNReleased (straps : CardId)
  /-- WARM_N_ASSERTED (R168). -/
  | warmNAsserted
  /-- WARM_N_RELEASED (R169): `straps` are sampled if RESET_N is not asserted. -/
  | warmNReleased (straps : CardId)
  /-- LOAD_TIMEOUT (R169). -/
  | loadTimeout
  /-- END_OF_LOADING (R171): the read has ended as `rom` says, and loading completes. -/
  | endOfLoading (rom : RomRead)
  /-- LISTEN_DEADLINE (R173). -/
  | listenDeadline
  deriving DecidableEq, Repr

end Sys2Proof
end

