-- ==== Sys2Proof/WellFormed.lean ====
section
/-! DEFINITION. Which terms of Instr stand for a command of the table: the bounds of ports, cards, uplinks and bytes are in
their types; what is left is the length of the configuration image, that of a frame, and that an unknown byte is unknown. -/

namespace Sys2Proof

/-- An image has the 27 bytes of spec/12_formats.md section 12.5. -/
def RomRead.wellFormed : RomRead → Bool
  | .noAck => true
  | .image bytes => bytes.length == Config.imageBytes

/-- A command is well formed when its operands are ones its row can have. -/
def WellFormed : Instr → Bool
  | .unknownCommand b => !Config.commandBytes.contains b
  | .endOfLoading rom => rom.wellFormed
  | .frameReceived _ bits => decide (bits.length ≤ Config.frameLength)
  | .lightFall _ | .lightRise _ | .lossTimerExpiry _ | .returnTimerExpiry _ | .decayTick | .admissionDeadline _
  | .presenceDeadline _ | .frameStart _ _ | .arbitrationLost | .abort | .frameComplete
  | .muteTimerExpiry | .beaconTimerExpiry | .stuckLine _ _ | .faultRecovery _ | .arbiterTake | .reconcile _
  | .installation | .settleDeadline | .lookupRequest _ | .answer | .dropUplink | .dropGroup | .dropAll | .status
  | .stageClear | .stageMember _ _ | .stageOptions _ _ | .commit _ _ | .release _ _ | .readGroup _ _ | .readSpread _ _
  | .readView _ | .readCards | .readJournal _ | .readCounters | .drain | .undrain | .warmReset | .chipSelectRelease _
  | .powerUp _ | .resetNAsserted | .resetNReleased _ | .warmNAsserted | .warmNReleased _ | .loadTimeout
  | .listenDeadline => true

end Sys2Proof
end

