-- ==== Sys2Proof/Decode.lean ====
section
/-! DEFINITION. `decodeTableWord`, which answers none because spec/opcode_table.json gives no row any bits (log 24), and the
command decoder of the Table Port Controller: the bytes of one transaction to a command, and back (spec/12_formats.md
section 12.4, R142, R144). -/

namespace Sys2Proof

/-- The command a word spells by the table's bits: the table gives no row any bits. -/
def decodeTableWord (_nbits _w : Nat) : Option Instr := none

/-- The argument bytes a command byte takes, none for a byte that names no command. -/
def argumentCount (cmd : Byte) : Option Nat :=
  if cmd ∈ [0x01#8, 0x10#8, 0x23#8, 0x25#8, 0x30#8, 0x31#8, 0x3F#8] then some 0
  else if cmd ∈ [0x22#8, 0x24#8] then some 1
  else if cmd ∈ [0x11#8, 0x12#8, 0x18#8, 0x19#8, 0x20#8, 0x21#8] then some 2
  else none

/-- The command named by a command byte with its arguments; none for another byte. -/
def namedCommand (cmd b0 b1 : Byte) : Option Instr :=
  if cmd = 0x01#8 then some .status
  else if cmd = 0x10#8 then some .stageClear
  else if cmd = 0x11#8 then some (.stageMember b0 b1)
  else if cmd = 0x12#8 then some (.stageOptions b0 b1)
  else if cmd = 0x18#8 then some (.commit b0 b1)
  else if cmd = 0x19#8 then some (.release b0 b1)
  else if cmd = 0x20#8 then some (.readGroup b0 b1)
  else if cmd = 0x21#8 then some (.readSpread b0 b1)
  else if cmd = 0x22#8 then some (.readView b0)
  else if cmd = 0x23#8 then some .readCards
  else if cmd = 0x24#8 then some (.readJournal b0)
  else if cmd = 0x25#8 then some .readCounters
  else if cmd = 0x30#8 then some .drain
  else if cmd = 0x31#8 then some .undrain
  else if cmd = 0x3F#8 then some .warmReset
  else none

/-- The command taken in a transaction that shifts in `bytes`: the command byte first, then its arguments. Bytes after the last
argument are ignored; with an argument missing, nothing is taken (R142); a byte that names no command is UNKNOWN_COMMAND
at once (R144). -/
def decodeTransaction : List Byte → Option Instr
  | [] => none
  | cmd :: args =>
    match argumentCount cmd with
    | none => some (.unknownCommand cmd)
    | some n => if args.length < n then none else namedCommand cmd (args.getD 0 0#8) (args.getD 1 0#8)

/-- The bytes the control processor shifts in for a command of the table port; none for a command that reaches the part
another way. -/
def encodeTransaction : Instr → Option (List Byte)
  | .status => some [0x01#8]
  | .stageClear => some [0x10#8]
  | .stageMember b0 b1 => some [0x11#8, b0, b1]
  | .stageOptions b0 b1 => some [0x12#8, b0, b1]
  | .commit b0 b1 => some [0x18#8, b0, b1]
  | .release b0 b1 => some [0x19#8, b0, b1]
  | .readGroup b0 b1 => some [0x20#8, b0, b1]
  | .readSpread b0 b1 => some [0x21#8, b0, b1]
  | .readView b0 => some [0x22#8, b0]
  | .readCards => some [0x23#8]
  | .readJournal b0 => some [0x24#8, b0]
  | .readCounters => some [0x25#8]
  | .drain => some [0x30#8]
  | .undrain => some [0x31#8]
  | .warmReset => some [0x3F#8]
  | .unknownCommand b => some [b]
  | .lightFall _ | .lightRise _ | .lossTimerExpiry _ | .returnTimerExpiry _ | .decayTick | .admissionDeadline _
  | .presenceDeadline _ | .frameReceived _ _ | .frameStart _ _ | .arbitrationLost | .abort | .frameComplete
  | .muteTimerExpiry | .beaconTimerExpiry | .stuckLine _ _ | .faultRecovery _ | .arbiterTake | .reconcile _
  | .installation | .settleDeadline | .lookupRequest _ | .answer | .dropUplink | .dropGroup | .dropAll
  | .chipSelectRelease _ | .powerUp _ | .resetNAsserted | .resetNReleased _ | .warmNAsserted | .warmNReleased _
  | .loadTimeout | .endOfLoading _ | .listenDeadline => none

end Sys2Proof
end

