-- ==== Sys2Proof/Machine/State.lean ====
section
/-! DEFINITION. The state of the block, whole and as plain data, block by block as spec/00_scope.md section 3.1 lists them, the
reasons a step can stop, and the state after reset. -/

namespace Sys2Proof.Machine

/-- Faults: none. No row of the table stops the part (INVENTORY.md, Faults). -/
inductive Fault where
  deriving DecidableEq, Repr

/-- Refusals: the one the host's interface asks for. -/
inductive Refusal where
  /-- Would be raised by an arm of `exec` for a row that has no meaning yet; no arm raises it. Safe. -/
  | notModelled (mnemonic : String)
  deriving DecidableEq, Repr

/-! ### Light Monitors -/

/-- A port status (R3). -/
inductive PortStatus where
  | up | lost | held | unwatched
  deriving DecidableEq, Repr

/-- The eight statuses of one card, port 0 first. -/
abbrev Statuses := Vector PortStatus 8

/-- The origin of FADING (spec/01_light_monitors.md section 1.2). -/
inductive Origin where
  | up | held
  deriving DecidableEq, Repr

/-- A monitor's state; the debounce timer runs only in FADING and RETURNING and is held there with its expiry time. -/
inductive MonitorState where
  | off
  | up
  | fading (origin : Origin) (runsOut : Nat)
  | dark
  | returning (runsOut : Nat)
  | held
  deriving DecidableEq, Repr

/-- One Light Monitor with its port's penalty figure and suppressed flag (R19). -/
structure Monitor where
  state : MonitorState
  penalty : Nat
  suppressed : Bool
  losses : Count16
  glitches : Count16
  deriving DecidableEq, Repr

/-! ### Uplink View -/

/-- Why an entry is DARK. -/
inductive DarkReason where
  | lost | held | unwatched | absent | withdrawn | unheard | isolated
  deriving DecidableEq, Repr

/-- The state of a view entry; the admission deadline is present only in SETTLING, the reason only in DARK. -/
inductive EntryState where
  | admitted
  | settling (deadline : Nat)
  | dark (reason : DarkReason)
  deriving DecidableEq, Repr

/-- One view entry (spec/03_the_uplink_view.md section 3.1). -/
structure Entry where
  state : EntryState
  firstMark : Bool
  deriving DecidableEq, Repr

/-- A presence deadline: a time, or suspended while isolation lasts (R44). -/
inductive PresenceDeadline where
  | due (time : Nat)
  | suspended
  deriving DecidableEq, Repr

/-- A card's presence, with its deadline in PRESENT and WITHDRAWN. -/
inductive Presence where
  | self
  | unheard
  | present (deadline : PresenceDeadline)
  | withdrawn (deadline : PresenceDeadline)
  | absent
  deriving DecidableEq, Repr

/-- One card record (spec/03_the_uplink_view.md section 3.1). -/
structure CardRecord where
  presence : Presence
  lastHeard : Option Statuses
  recheck : Bool
  deriving DecidableEq, Repr

/-- The Uplink View. -/
structure View where
  entries : Vector Entry 128
  cards : Vector CardRecord 16
  draining : Bool
  isolated : Bool
  deriving DecidableEq, Repr

/-! ### Notice Bus Controller -/

/-- A frame class (spec/12_formats.md section 12.1). -/
inductive FrameClass where
  | loss | withdraw | return | beacon
  deriving DecidableEq, Repr

/-- The controller's state (R52); the mute timer is present only in MUTED. -/
inductive BusState where
  | stopped
  | open
  | muted (runsOut : Nat)
  | fault
  | clashed
  deriving DecidableEq, Repr

/-- What the framer is doing (R53, R58 to R60). -/
inductive Framer where
  /-- Not receiving: STOPPED and FAULT. -/
  | off
  /-- Outside a frame, with the idle count. -/
  | gap (idle : Nat)
  /-- Sending a frame of this class and status, of whose bits after the start bit `sent` have been read back as sent (R52). -/
  | sending (cls : FrameClass) (status : Statuses) (sent : Nat)
  /-- Taking a frame as a receiver, with the bits after the start bit taken so far (R52); the mark says that this chip itself sent in
  the frame and aborted. -/
  | receiving (aborted : Bool) (taken : List Bool)
  deriving DecidableEq, Repr

/-- The Notice Bus Controller without its sending side (R52, R68). -/
structure Bus where
  ctl : BusState
  framer : Framer
  abortRun : Nat
  clashMark : Bool
  framesSent : Count16
  arbLost : Count16
  aborts : Count16
  framesReceived : Count16
  framingErrors : Count16
  crcErrors : Count16
  deriving DecidableEq, Repr

/-- The sending side (spec/05_announcing_and_hearing_status.md section 5.2). -/
structure Sender where
  lossDue : Bool
  withdrawDue : Bool
  returnDue : Bool
  beaconDue : Bool
  beaconTimer : Option Nat
  history : List Nat
  rejoin : Bool
  deriving DecidableEq, Repr

/-! ### Group Store -/

/-- A tier. -/
inductive Tier where
  | t0 | t1
  deriving DecidableEq, Repr

/-- What a member place holds: the uplink, tier and weight of the member whose index is the place's number. -/
structure Seat where
  uplink : Uplink
  tier : Tier
  weight : Nat
  deriving DecidableEq, Repr

/-- The part of a group record the control processor gives (R89, R145): the staging record, a pending group record and an
installed record all have this form. An empty place is a gap in the member indexes. -/
structure Record where
  seats : Vector (Option Seat) 8
  minLive : Nat
  escape : Option Uplink
  revertive : Bool
  deriving DecidableEq, Repr

/-- A group's mode (R90). -/
inductive Mode where
  | unused | tier0 | tier0Short | tier1 | escape | dark
  deriving DecidableEq, Repr

/-- The recorded active tier (R90). -/
inductive ActiveTier where
  | tier (t : Tier)
  | escape
  | none
  deriving DecidableEq, Repr

/-- The recorded active set (R90). -/
inductive ActiveSet where
  | members (indexes : List MemberIdx)
  | escape
  | empty
  deriving DecidableEq, Repr

/-- What a slot of a spread holds (R89). -/
inductive Occupant where
  | member (i : MemberIdx)
  | escape
  | empty
  deriving DecidableEq, Repr

/-- A spread of 64 slots. -/
abbrev Spread := Vector Occupant 64

/-- A group that is not UNUSED: its installed record and what its last reconcile recorded (R89). -/
structure Group where
  number : GroupNo
  record : Record
  mode : Mode
  tier : ActiveTier
  set : ActiveSet
  spread : Spread
  deriving DecidableEq, Repr

/-- The two kinds of pending record (R148). -/
inductive PendingKind where
  | record (r : Record)
  | release
  deriving DecidableEq, Repr

/-- A pending record in the pool. -/
structure PendingRecord where
  group : GroupNo
  kind : PendingKind
  deriving DecidableEq, Repr

/-- The Group Store: the groups that are not UNUSED in ascending number, the member lists, the pending pool. -/
structure Store where
  groups : List Group
  memberLists : Vector (List GroupNo) 128
  pool : List PendingRecord
  deriving DecidableEq, Repr

/-! ### Repair Engine -/

/-- A waiting URGENT or CALM entry; a walk position is present only in an entry that was suspended (R107). -/
structure WorkEntry where
  uplink : Uplink
  position : Option GroupNo
  deriving DecidableEq, Repr

/-- A waiting SWEEP entry. -/
structure SweepEntry where
  position : Option GroupNo
  deriving DecidableEq, Repr

/-- A walk in progress: the last group it reconciled, the group it is at, and, of the uplinks that group names, those that
were ADMITTED when the walk came to it (R93, R114). -/
structure Walk where
  position : Option GroupNo
  group : GroupNo
  snapshot : List Uplink
  deriving DecidableEq, Repr

/-- The running job (R113). -/
inductive Job where
  | urgent (u : Uplink) (walk : Walk)
  | calm (u : Uplink) (walk : Walk)
  | sweep (walk : Walk)
  | build (group : GroupNo) (kind : PendingKind) (snapshot : List Uplink)
  deriving DecidableEq, Repr

/-- An open episode (R122). -/
structure Episode where
  openedAt : Nat
  groups : List GroupNo
  slotsMoved : Nat
  viewChanges : Nat
  settle : Option Nat
  deriving DecidableEq, Repr

/-- The Repair Engine: IDLE when there is no job. `discarded` is what PENDING_DISCARDED will report (R125). -/
structure Engine where
  urgent : List WorkEntry
  calm : List WorkEntry
  build : List GroupNo
  sweep : Option SweepEntry
  job : Option Job
  completed : Count16
  episode : Option Episode
  discarded : Nat
  deriving DecidableEq, Repr

/-! ### Lookup Unit -/

/-- An outstanding request (R127). -/
structure Request where
  tag : BitVec 8
  group : GroupNo
  hash : BitVec 16
  deriving DecidableEq, Repr

/-- An answer with the fields its class has (R129). -/
inductive Answer where
  | normal (u : Uplink) (t : Tier)
  | patched (u : Uplink) (t : Tier)
  | escape (u : Uplink)
  | discard
  | noRoute
  deriving DecidableEq, Repr

/-- A message of the answer channel (R129). -/
inductive Message where
  | answer (tag : BitVec 8) (a : Answer)
  | dropUplink (u : Uplink)
  | dropGroup (g : GroupNo)
  | dropAll
  deriving DecidableEq, Repr

/-- The alternation mark (R138). -/
inductive LastKind where
  | answer | dropGroup
  deriving DecidableEq, Repr

/-- The Lookup Unit; `emitted` is the last message that passed on the answer channel (log 20). -/
structure Lookup where
  queue : List Request
  dropUplinks : List Uplink
  dropGroups : List GroupNo
  dropAll : Bool
  lastKind : LastKind
  patched : Count16
  discarded : Count16
  noRoute : Count16
  emitted : Option Message
  deriving DecidableEq, Repr

/-! ### Table Port Controller -/

/-- Where the port stands in a transaction (R142). -/
inductive Transaction where
  /-- Chip select is released. -/
  | released
  /-- Chip select is asserted and no command has been taken yet. -/
  | selected
  /-- A command has been taken and chip select is still asserted. -/
  | taken
  /-- Chip select has been asserted through a reset and is ignored until its release. -/
  | ignored
  deriving DecidableEq, Repr

/-- The Table Port Controller; `response` is the status byte and the data of the command taken (log 20). -/
structure TablePort where
  staging : Record
  transaction : Transaction
  warmOrdered : Bool
  response : List Byte
  deriving DecidableEq, Repr

/-! ### Journal -/

/-- Why an image was not used (R169). -/
inductive LoadCause where
  | noRom | badMagic | badCrc
  deriving DecidableEq, Repr

/-- The kind of a start (R168). -/
inductive StartKind where
  | cold | warm
  deriving DecidableEq, Repr

/-- The detail of a VIEW_CHANGE record. -/
inductive EntryDetail where
  | admitted
  | settling
  | dark (reason : DarkReason)
  deriving DecidableEq, Repr

/-- The fifteen kinds of record with their subjects and details (R159). -/
inductive JournalBody where
  | viewChange (u : Uplink) (detail : EntryDetail)
  | cardSeen (c : CardId)
  | cardLost (c : CardId)
  | cardWithdrawn (c : CardId)
  | cardReturned (c : CardId)
  | busFault
  | busClear
  | muted
  | clash (c : CardId)
  | groupMode (g : GroupNo) (mode : Mode)
  | episodeEnd (groups slots views duration : Nat)
  | configDefaulted (cause : LoadCause)
  | configClamped (marks : Vector Bool 12)
  | pendingDiscarded (count : Nat)
  | joined (kind : StartKind) (others : Nat)
  deriving DecidableEq, Repr

/-- A journal record (R158). -/
structure JournalRecord where
  body : JournalBody
  timestamp : BitVec 32
  deriving DecidableEq, Repr

/-- The Journal: the records held, oldest first, from the read position to the commit position (`committed`) and from there to
the write position (`heldBack`). -/
structure Journal where
  readPos : Fin 64
  committed : List JournalRecord
  heldBack : List JournalRecord
  episodeOpen : Bool
  lost : Count16
  deriving DecidableEq, Repr

/-! ### Start-up Loader, time base, pins -/

/-- The isolation policy (R30). -/
inductive Policy where
  | hold | localOnly
  deriving DecidableEq, Repr

/-- The notice bus bit rate (R50). -/
inductive BitRate where
  | m1 | m2 | m4 | m8
  deriving DecidableEq, Repr

/-- The configuration items in force, in the units of spec/12_formats.md section 12.5: loss debounce and transmit window in
10 µs, the other times in ms. -/
structure Settings where
  bitRate : BitRate
  watch : BitVec 8
  lossDebounce : Nat
  returnDebounce : Nat
  charge : Nat
  suppress : Nat
  reuse : Nat
  decayRate : Nat
  decayTick : Nat
  admissionDelay : Nat
  beaconInterval : Nat
  presenceWindow : Nat
  txLimit : Nat
  txWindow : Nat
  policy : Policy
  settleTime : Nat
  deriving DecidableEq, Repr

/-- The defaults of spec/12_formats.md section 12.5. -/
def Settings.default : Settings where
  bitRate := .m4
  watch := 0xFF#8
  lossDebounce := 5
  returnDebounce := 10
  charge := 1000
  suppress := 3000
  reuse := 1500
  decayRate := 64
  decayTick := 100
  admissionDelay := 2000
  beaconInterval := 5
  presenceWindow := 20
  txLimit := 8
  txWindow := 100
  policy := .hold
  settleTime := 20

/-- How far LOADING has come (R168, R169). -/
inductive Load where
  /-- A reset line is asserted: the load has not begun. -/
  | waiting
  /-- The image is being read; the read must be complete by the limit. -/
  | reading (limit : Nat)
  /-- The limit has run out: CONFIG_DEFAULTED for no ROM answering is noted. -/
  | timedOut
  deriving DecidableEq, Repr

/-- The phase (R168), with the listen deadline in LISTEN (R172). -/
inductive Phase where
  | loading (load : Load)
  | listen (deadline : Nat)
  | serve
  deriving DecidableEq, Repr

/-- The Start-up Loader. -/
structure Start where
  phase : Phase
  kind : StartKind
  cardId : CardId
  settings : Settings
  deriving DecidableEq, Repr

/-- The time base (R158, R22); `now` is the model's own clock in µs, against which every deadline is written (log 2). -/
structure Clock where
  now : Nat
  timeBase : BitVec 32
  nextTick : Option Nat
  deriving DecidableEq, Repr

/-- Input levels: light present at each port, and whether each reset line is asserted (low). -/
structure Pins where
  light : Vector Bool 8
  resetN : Bool
  warmN : Bool
  deriving DecidableEq, Repr

/-- The model's own fields: the number of order choices made (log 8), and the number of free bytes used (log 16). -/
structure ModelOwn where
  ordersMade : Nat
  freeUse : Nat
  deriving DecidableEq, Repr

/-- The state of the block and the queue of commands that wait. -/
structure State where
  pins : Pins
  clock : Clock
  start : Start
  monitors : Vector Monitor 8
  view : View
  bus : Bus
  sender : Sender
  store : Store
  engine : Engine
  lookup : Lookup
  port : TablePort
  journal : Journal
  model : ModelOwn
  pending : List Instr
  deriving DecidableEq, Repr

namespace State

/-! ### One setter per field -/

def withPins (s : State) (x : Pins) : State := { s with pins := x }
def withClock (s : State) (x : Clock) : State := { s with clock := x }
def withStart (s : State) (x : Start) : State := { s with start := x }
def withMonitors (s : State) (x : Vector Monitor 8) : State := { s with monitors := x }
def withView (s : State) (x : View) : State := { s with view := x }
def withBus (s : State) (x : Bus) : State := { s with bus := x }
def withSender (s : State) (x : Sender) : State := { s with sender := x }
def withStore (s : State) (x : Store) : State := { s with store := x }
def withEngine (s : State) (x : Engine) : State := { s with engine := x }
def withLookup (s : State) (x : Lookup) : State := { s with lookup := x }
def withPort (s : State) (x : TablePort) : State := { s with port := x }
def withJournal (s : State) (x : Journal) : State := { s with journal := x }
def withModel (s : State) (x : ModelOwn) : State := { s with model := x }
def withPending (s : State) (x : List Instr) : State := { s with pending := x }

end State

/-! ### Reset values -/

/-- A monitor after a cold reset (R15, R16, R28). -/
def Monitor.cold : Monitor := ⟨.dark, 0, false, 0#16, 0#16⟩

/-- The view while a reset is asserted and until loading finishes (R47). -/
def View.reset : View where
  entries := Vector.replicate 128 ⟨.dark .unheard, true⟩
  cards := Vector.replicate 16 ⟨.unheard, none, false⟩
  draining := false
  isolated := false

/-- The controller after a cold reset (R68, R69). -/
def Bus.cold : Bus := ⟨.stopped, .off, 0, false, 0#16, 0#16, 0#16, 0#16, 0#16, 0#16⟩

/-- The sending side after a reset (R71). -/
def Sender.reset : Sender := ⟨false, false, false, false, none, [], false⟩

/-- The Group Store after a cold reset (R105). -/
def Store.cold : Store := ⟨[], Vector.replicate 128 [], []⟩

/-- The Repair Engine after a cold reset (R126). -/
def Engine.cold : Engine := ⟨[], [], [], none, none, 0#16, none, 0⟩

/-- The Lookup Unit after a cold reset (R133, R140). -/
def Lookup.cold : Lookup := ⟨[], [], [], false, .dropGroup, 0#16, 0#16, 0#16, none⟩

/-- The staging record after STAGE_CLEAR and after each reset (R145). -/
def Record.cleared : Record := ⟨Vector.replicate 8 none, 1, none, true⟩

/-- The Journal after a cold reset (R166). -/
def Journal.cold : Journal := ⟨0, [], [], false, 0#16⟩

/-- The part right after reset: power-up has ended with no reset line asserted, a cold reset has been performed, and the
image is being read (R168, R169; logs 4 to 7). The input levels, chip select released among them, are the model's choice (log 5). -/
def State.reset : State where
  pins := ⟨Vector.replicate 8 false, false, false⟩
  clock := ⟨0, 0#32, none⟩
  start := ⟨.loading (.reading Config.loadLimit), .cold, 0, Settings.default⟩
  monitors := Vector.replicate 8 Monitor.cold
  view := View.reset
  bus := Bus.cold
  sender := Sender.reset
  store := Store.cold
  engine := Engine.cold
  lookup := Lookup.cold
  port := ⟨Record.cleared, .released, false, []⟩
  journal := Journal.cold
  model := ⟨0, 0⟩
  pending := []

end Sys2Proof.Machine
end

