-- ==== Sys2Proof/Machine/Operands.lean ====
section
/-! DEFINITION. The fields of operands as they pass the pins, and the CRC: spec/12_formats.md sections 12.1 to 12.4. -/

namespace Sys2Proof.Machine

/-! ### Argument bytes of the table port (section 12.4); bits shown in no field are ignored (R179) -/

/-- A group argument: bits 9 to 0 of two bytes, the first byte high. -/
def groupArg (b0 b1 : Byte) : GroupNo := ((b0 ++ b1).extractLsb' 0 10).toFin

/-- The card argument of READ_VIEW: bits 3 to 0. -/
def cardArg (b0 : Byte) : CardId := (b0.extractLsb' 0 4).toFin

/-- An uplink number: bits 6 to 0. -/
def uplinkArg (b : Byte) : Uplink := (b.extractLsb' 0 7).toFin

/-- A tier: bit 7, 0 or 1. -/
def tierArg (b : Byte) : Tier := if b.getLsbD 7 then .t1 else .t0

/-- The place of STAGE_MEMBER: bits 7 to 5 of its first byte. -/
def placeArg (b0 : Byte) : MemberIdx := (b0.extractLsb' 5 3).toFin

/-- The weight of STAGE_MEMBER: bits 4 to 0 of its first byte. -/
def weightArg (b0 : Byte) : Nat := (b0.extractLsb' 0 5).toNat

/-- Min-live of STAGE_OPTIONS: bits 3 to 0 of its first byte. -/
def minLiveArg (b0 : Byte) : Nat := (b0.extractLsb' 0 4).toNat

/-- The escape of STAGE_OPTIONS: present in bit 7 of its second byte, uplink in bits 6 to 0. -/
def escapeArg (b1 : Byte) : Option Uplink := if b1.getLsbD 7 then some (uplinkArg b1) else none

/-! ### The lookup request word (section 12.3) -/

/-- Tag in bits 33 to 26, group in bits 25 to 16, hash in bits 15 to 0. -/
def requestOf (w : BitVec 34) : Request :=
  ⟨w.extractLsb' 26 8, (w.extractLsb' 16 10).toFin, w.extractLsb' 0 16⟩

/-! ### The notice bus frame (section 12.2) -/

/-- The code of a frame class (section 12.1). -/
def FrameClass.code : FrameClass → BitVec 2
  | .loss => 0#2 | .withdraw => 1#2 | .return => 2#2 | .beacon => 3#2

/-- The frame class of a code. -/
def frameClassOf (c : BitVec 2) : FrameClass :=
  if c = 0#2 then .loss else if c = 1#2 then .withdraw else if c = 2#2 then .return else .beacon

/-- The code of a port status (section 12.1). -/
def PortStatus.code : PortStatus → BitVec 2
  | .up => 0#2 | .lost => 1#2 | .held => 2#2 | .unwatched => 3#2

/-- The port status of a code. -/
def portStatusOf (c : BitVec 2) : PortStatus :=
  if c = 0#2 then .up else if c = 1#2 then .lost else if c = 2#2 then .held else .unwatched

/-- The status field: port 7 first on the line, two bits each. -/
def statusWord (s : Statuses) : BitVec 16 :=
  s[7].code ++ s[6].code ++ s[5].code ++ s[4].code ++ s[3].code ++ s[2].code ++ s[1].code ++ s[0].code

/-- The eight statuses of a status field. -/
def statusesOf (w : BitVec 16) : Statuses :=
  Vector.ofFn fun p => portStatusOf (w.extractLsb' (2 * p.val) 2)

/-- The bits of a word in the order they pass, most significant first. -/
def bitsOf {n : Nat} (w : BitVec n) : List Bool := (List.range n).map fun i => w.getMsbD i

/-- One bit through the CRC register (R177). -/
def crcStep (reg : BitVec 16) (b : Bool) : BitVec 16 :=
  if b ^^ reg.msb then (reg <<< 1) ^^^ 0x1021#16 else reg <<< 1

/-- The CRC of a run of bits (R177). -/
def crcOf (bits : List Bool) : BitVec 16 := bits.foldl crcStep 0xFFFF#16

/-- The CRC of a frame over class, card id and status (R177). -/
def frameCrc (cls : BitVec 2) (card : BitVec 4) (status : BitVec 16) : BitVec 16 :=
  crcOf (bitsOf (cls ++ card ++ status))

/-- The sync pattern 1, 0, 1, 0, 1, 0, 1, 0 (R51). -/
def syncPattern : BitVec 8 := 0xAA#8

/-- What has been taken of a frame agrees with the sync pattern as far as it goes (R55). -/
def syncHolds (taken : List Bool) : Bool := taken.take 8 == (bitsOf syncPattern).take taken.length

/-- The 48 bits after the start bit as one word, the first on the line highest. -/
def frameWord (taken : List Bool) : BitVec 48 := (BitVec.ofBoolListBE taken).setWidth 48

/-- The class field. -/
def frameClassBits (bits : BitVec 48) : BitVec 2 := bits.extractLsb' 38 2

/-- The card id field. -/
def frameCardBits (bits : BitVec 48) : BitVec 4 := bits.extractLsb' 34 4

/-- The status field. -/
def frameStatusBits (bits : BitVec 48) : BitVec 16 := bits.extractLsb' 18 16

/-- The CRC field. -/
def frameCrcBits (bits : BitVec 48) : BitVec 16 := bits.extractLsb' 2 16

/-- The two end bits. -/
def frameEndBits (bits : BitVec 48) : BitVec 2 := bits.extractLsb' 0 2

/-- The 48 bits after the start bit of a frame that is sent (section 12.2). -/
def frameBits (cls : FrameClass) (card : CardId) (status : Statuses) : BitVec 48 :=
  syncPattern ++ cls.code ++ BitVec.ofFin (w := 4) card ++ statusWord status ++
    frameCrc cls.code (BitVec.ofFin (w := 4) card) (statusWord status) ++ 3#2

/-- The bits of a frame that is sent, after the start bit, in the order on the line. -/
def lineBits (cls : FrameClass) (card : CardId) (status : Statuses) : List Bool := bitsOf (frameBits cls card status)

/-- The 6-bit arbitration field, class in front (R59). -/
def arbitrationField (cls : FrameClass) (card : CardId) : BitVec 6 := cls.code ++ BitVec.ofFin (w := 4) card

/-! ### Bytes of a list -/

/-- Two bytes of a list as one value, the first high. -/
def twoBytes (bytes : List Byte) (i : Nat) : BitVec 16 := bytes.getD i 0#8 ++ bytes.getD (i + 1) 0#8

/-- The bits of a run of bytes, each most significant first. -/
def byteBits (bytes : List Byte) : List Bool := bytes.flatMap bitsOf

end Sys2Proof.Machine
end

