-- ==== Sys2Proof/Machine/Flags.lean ====
section
/-! DEFINITION. Counters that saturate, port statuses as monitors report them, and the due flags of the sending side. -/

namespace Sys2Proof.Machine

/-- A counter one higher; it stops at 65535 (spec/00_scope.md section 6). -/
def satInc (c : Count16) : Count16 := if c = 65535#16 then c else c + 1#16

/-- An episode count raised by `k`; it saturates at 65535 (R123). -/
def addCount (n k : Nat) : Nat := min (n + k) Config.countMax

/-- The reported status of a monitor state (R3). -/
def MonitorState.status : MonitorState → PortStatus
  | .off => .unwatched
  | .up => .up
  | .fading .up _ => .up
  | .fading .held _ => .held
  | .dark => .lost
  | .returning _ => .lost
  | .held => .held

/-- The flag a change of reported status raises (R72), each flag named by the class it asks for. -/
def dueFor : PortStatus → PortStatus → Option FrameClass
  | .up, .lost => some .loss
  | .lost, .up => some .return
  | .held, .up => some .return
  | .lost, .held => some .beacon
  | .held, .lost => some .beacon
  | _, _ => none

/-- A due flag raised; one already raised stays raised (R76). -/
def Sender.raise (f : FrameClass) (d : Sender) : Sender :=
  match f with
  | .loss => { d with lossDue := true }
  | .withdraw => { d with withdrawDue := true }
  | .return => { d with returnDue := true }
  | .beacon => { d with beaconDue := true }

/-- A frame is waiting while a due flag is raised (spec/05_announcing_and_hearing_status.md section 5.2). -/
def Sender.waiting (d : Sender) : Bool := d.lossDue || d.withdrawDue || d.returnDue || d.beaconDue

/-- The class of the highest raised flag, in the order loss, withdraw, return, beacon (R78). -/
def Sender.highest (d : Sender) : FrameClass :=
  if d.lossDue then .loss else if d.withdrawDue then .withdraw else if d.returnDue then .return else .beacon

/-- All four flags cleared (R78). -/
def Sender.clearFlags (d : Sender) : Sender :=
  { d with lossDue := false, withdrawDue := false, returnDue := false, beaconDue := false }

/-- The flag raised when a frame's class is handed back (R80). -/
def handedBack (draining : Bool) : FrameClass → FrameClass
  | .withdraw => if draining then .withdraw else .beacon
  | c => c

/-- The transmit limit (R77): fewer than `limit` starts, or the oldest at least one window (in µs) before `now`. -/
def permitsStart (limit window now : Nat) (history : List Nat) : Bool :=
  decide (history.length < limit) ||
    match history with
    | [] => false
    | oldest :: _ => decide (oldest + window ≤ now)

/-- The history with a start recorded; with `limit` entries held the oldest goes (R77). -/
def recordStart (limit now : Nat) (history : List Nat) : List Nat :=
  (if history.length < limit then history else history.tail) ++ [now]

end Sys2Proof.Machine
end

