-- ==== Sys2Proof/Machine/Ops.lean ====
section
/-! DEFINITION. The operations the commands share: the clock, sets held as ascending lists, the Journal, the worklist and the
episode, and the moves of view entries with what they hand on. -/

namespace Sys2Proof.Machine

/-! ### Clock (log 2) -/

/-- `d` µs pass: the time base counts unless RESET_N is asserted (R158). -/
def State.elapse (d : Nat) (s : State) : State :=
  s.withClock { s.clock with
    now := s.clock.now + d
    timeBase := if s.pins.resetN then s.clock.timeBase else s.clock.timeBase + BitVec.ofNat 32 d }

/-- Time passes up to `t`, if it lies ahead. -/
def State.advanceTo (t : Nat) (s : State) : State := s.elapse (t - s.clock.now)

/-- Milliseconds in µs. -/
def ms (n : Nat) : Nat := 1000 * n

/-! ### Sets of numbers as ascending lists -/

/-- A number put into its ascending place, unless it is there. -/
def insertAsc {n : Nat} (x : Fin n) : List (Fin n) → List (Fin n)
  | [] => [x]
  | y :: ys => if x < y then x :: y :: ys else if x = y then y :: ys else y :: insertAsc x ys

/-- A number taken out. -/
def removeAsc {n : Nat} (x : Fin n) (l : List (Fin n)) : List (Fin n) := l.filter fun y => y != x

/-! ### The Journal -/

/-- The commit position moved to the write position (R161). -/
def Journal.commitAll (j : Journal) : Journal :=
  { j with committed := j.committed ++ j.heldBack, heldBack := [] }

/-- The number of records held. -/
def Journal.size (j : Journal) : Nat := j.committed.length + j.heldBack.length

/-- Room for one record: with 64 held, the oldest is discarded and counted (R163). -/
def Journal.makeRoom (j : Journal) : Journal :=
  if j.size < Config.ringPlaces then j
  else
    match j.committed with
    | _ :: rest => { j with committed := rest, readPos := j.readPos + 1, lost := satInc j.lost }
    | [] => { j with heldBack := j.heldBack.tail, readPos := j.readPos + 1, lost := satInc j.lost }

/-- The record at the write position, uncommitted (R160). -/
def Journal.push (r : JournalRecord) (j : Journal) : Journal := { j with heldBack := j.heldBack ++ [r] }

/-- An append: with no episode open, or with 32 uncommitted records, all become committed in the same step (R160 to R163). -/
def Journal.append (r : JournalRecord) (j : Journal) : Journal :=
  let k := j.makeRoom.push r
  if k.episodeOpen && decide (k.heldBack.length < Config.forcedCommit) then k else k.commitAll

/-- A record appended with the time base's count as its timestamp (R158). -/
def State.append (b : JournalBody) (s : State) : State :=
  s.withJournal (s.journal.append ⟨b, s.clock.timeBase⟩)

/-- ALERT_N is asserted while a committed record is unread (R165). -/
def State.alertAsserted (s : State) : Bool := !s.journal.committed.isEmpty

/-! ### Order choices (log 8) -/

/-- The next order choice, a free value: true for the order named first at the place of use. The orders differ only in whether a
record is appended before or after an episode opens; with one open they come to the same, and the first is taken. -/
def State.nextOrder (s : State) : Bool := s.journal.episodeOpen || Config.namedOrder s.model.ordersMade

/-- The state with that choice made. -/
def State.orderMade (s : State) : State :=
  s.withModel { s.model with ordersMade := s.model.ordersMade + 1 }

/-! ### The worklist and the episode -/

/-- The number of waiting entries of all four classes (R107). -/
def Engine.worklistLength (e : Engine) : Nat :=
  e.urgent.length + e.calm.length + e.build.length + (if e.sweep.isSome then 1 else 0)

/-- At rest: IDLE with an empty worklist (R113). -/
def Engine.atRest (e : Engine) : Bool := e.job.isNone && e.worklistLength == 0

/-- Is an entry for `u` waiting in this queue? -/
def waitingIn (q : List WorkEntry) (u : Uplink) : Bool := q.any fun w => w.uplink == u

/-- A queue without its entry for `u`. -/
def withoutUplink (q : List WorkEntry) (u : Uplink) : List WorkEntry := q.filter fun w => w.uplink != u

/-- An entry is about to be made: at rest with no episode open, an episode opens and the Journal is told (R122); with one open,
its settle deadline is discarded (R124). -/
def State.entryMade (s : State) : State :=
  match s.engine.episode with
  | some e => s.withEngine { s.engine with episode := some { e with settle := none } }
  | none =>
    if s.engine.atRest then
      (s.withEngine { s.engine with episode := some ⟨s.clock.now, [], 0, 0, none⟩ }).withJournal
        { s.journal with episodeOpen := true }
    else s

/-- A notice adds 1 to the view changes of the open episode (R123). -/
def State.countViewChange (s : State) : State :=
  s.withEngine { s.engine with
    episode := s.engine.episode.map fun e => { e with viewChanges := addCount e.viewChanges 1 } }

/-- An URGENT entry for `u` at the tail, replacing a CALM one (R108). -/
def State.makeUrgent (u : Uplink) (s : State) : State :=
  s.withEngine { s.engine with
    urgent := s.engine.urgent ++ [⟨u, none⟩]
    calm := withoutUplink s.engine.calm u }

/-- A CALM entry for `u` at the tail, replacing an URGENT one (R109). -/
def State.makeCalm (u : Uplink) (s : State) : State :=
  s.withEngine { s.engine with
    calm := s.engine.calm ++ [⟨u, none⟩]
    urgent := withoutUplink s.engine.urgent u }

/-- The notice that `u` left ADMITTED (R108, R123). -/
def State.noticeLeft (u : Uplink) (s : State) : State :=
  (if waitingIn s.engine.urgent u then s else s.entryMade.makeUrgent u).countViewChange

/-- The notice that `u` entered ADMITTED (R109, R123). -/
def State.noticeEntered (u : Uplink) (s : State) : State :=
  (if waitingIn s.engine.calm u then s else s.entryMade.makeCalm u).countViewChange

/-- With the engine at rest and an episode open, the settle deadline is set (R124). -/
def State.startSettling (s : State) : State :=
  if s.engine.atRest then
    s.withEngine { s.engine with
      episode := s.engine.episode.map fun e =>
        { e with settle := some (s.clock.now + ms s.start.settings.settleTime) } }
  else s

/-- The running job completes (R113, R120). -/
def State.completeJob (s : State) : State :=
  (s.withEngine { s.engine with job := none, completed := s.engine.completed + 1#16 }).startSettling

/-! ### Drops -/

/-- A drop of uplink `u` enters its set (R134). -/
def State.putUplinkDrop (u : Uplink) (s : State) : State :=
  s.withLookup { s.lookup with dropUplinks := insertAsc u s.lookup.dropUplinks }

/-- A drop of group `g` enters its set (R135). -/
def State.putGroupDrop (g : GroupNo) (s : State) : State :=
  s.withLookup { s.lookup with dropGroups := insertAsc g s.lookup.dropGroups }

/-! ### View entries -/

/-- Is the entry ADMITTED? -/
def EntryState.isAdmitted : EntryState → Bool
  | .admitted => true
  | .settling _ => false
  | .dark _ => false

/-- What a VIEW_CHANGE record says of a state (R159). -/
def EntryState.detail : EntryState → EntryDetail
  | .admitted => .admitted
  | .settling _ => .settling
  | .dark r => .dark r

/-- Is uplink `u` ADMITTED in the view? -/
def State.isAdmitted (s : State) (u : Uplink) : Bool := s.view.entries[u].state.isAdmitted

/-- The reported status of the monitor of port `p`. -/
def State.reported (s : State) (p : Port) : PortStatus := s.monitors[p].state.status

/-- The reported statuses of the eight own ports. -/
def State.ownStatuses (s : State) : Statuses := Vector.ofFn fun p => s.reported p

/-- The phase is LOADING. -/
def State.isLoading (s : State) : Bool :=
  match s.start.phase with
  | .loading _ => true
  | .listen _ => false
  | .serve => false

/-- The phase is SERVE. -/
def State.isServe (s : State) : Bool :=
  match s.start.phase with
  | .loading _ => false
  | .listen _ => false
  | .serve => true

/-- The standing of an entry: in service, or a reason to be DARK. -/
inductive Standing where
  | inService
  | dark (reason : DarkReason)
  deriving DecidableEq, Repr

/-- The standing a port status gives (R31). -/
def PortStatus.standing : PortStatus → Standing
  | .up => .inService
  | .lost => .dark .lost
  | .held => .dark .held
  | .unwatched => .dark .unwatched

/-- The standing of an uplink of a PRESENT card with this status (R31). -/
def presentStanding (recheck : Bool) (st : PortStatus) : Standing :=
  match st with
  | .up => if recheck then .dark .isolated else .inService
  | .lost => .dark .lost
  | .held => .dark .held
  | .unwatched => .dark .unwatched

/-- The last status heard of a port; a PRESENT card has been heard, and the other case cannot arise (log 3). -/
def CardRecord.heard (r : CardRecord) (p : Port) : PortStatus :=
  match r.lastHeard with
  | some st => st[p]
  | none => .lost

/-- An entry's standing from its inputs (R31). -/
def State.standing (s : State) (u : Uplink) : Standing :=
  let card := s.view.cards[cardOf u]
  match card.presence with
  | .self => if s.view.draining then .dark .withdrawn else (s.reported (portOf u)).standing
  | .unheard => .dark .unheard
  | .absent => .dark .absent
  | .withdrawn _ => .dark .withdrawn
  | .present _ => presentStanding card.recheck (card.heard (portOf u))

/-- The entry that a standing gives in place of `e` (R31, R32). -/
def Entry.applyStanding (now admissionDelay : Nat) (st : Standing) (e : Entry) : Entry :=
  match st with
  | .dark r => { e with state := .dark r }
  | .inService =>
    match e.state with
    | .admitted => e
    | .settling _ => e
    | .dark _ =>
      if e.firstMark then ⟨.admitted, false⟩
      else if admissionDelay = 0 then { e with state := .admitted }
      else { e with state := .settling (now + ms admissionDelay) }

/-- What is handed on when `u` leaves ADMITTED: the notice, the drop and the record (R35). -/
def State.handLeft (u : Uplink) (d : EntryDetail) (s : State) : State :=
  let t := s.orderMade.putUplinkDrop u
  if s.nextOrder then (t.noticeLeft u).append (.viewChange u d) else (t.append (.viewChange u d)).noticeLeft u

/-- What is handed on when `u` enters ADMITTED: the notice and the record (R36). -/
def State.handEntered (u : Uplink) (s : State) : State :=
  let t := s.orderMade
  if s.nextOrder then (t.noticeEntered u).append (.viewChange u .admitted)
  else (t.append (.viewChange u .admitted)).noticeEntered u

/-- What a change of an entry from `old` to `new` hands on; a change that leaves state and reason as they were hands on nothing
(R35, R36). -/
def State.handChange (u : Uplink) (old new : EntryState) (s : State) : State :=
  if old.detail = new.detail then s
  else if old.isAdmitted then s.handLeft u new.detail
  else if new.isAdmitted then s.handEntered u
  else s.append (.viewChange u new.detail)

/-- Entry `u` moved to `e`, whole, and handed on (R37). -/
def State.moveEntry (u : Uplink) (e : Entry) (s : State) : State :=
  (s.withView { s.view with entries := setAt s.view.entries u e }).handChange u s.view.entries[u].state e.state

/-- Entry `u` finds its standing afresh and is moved (R31, R32). -/
def State.refind (u : Uplink) (s : State) : State :=
  s.moveEntry u
    (s.view.entries[u].applyStanding s.clock.now s.start.settings.admissionDelay (s.standing u))

/-- The entries of these uplinks find their standing one after another, in the order given (R31); no arbiter take, snapshot, answer or
read falls between two of their moves (the model's choice, log 25). -/
def State.refindAll (us : List Uplink) (s : State) : State := us.foldl (fun t u => t.refind u) s

/-- The eight uplinks of a card, ascending. -/
def uplinksOf (c : CardId) : List Uplink := (List.finRange 8).map fun p => uplinkOf c p

/-- The card record of `c` replaced. -/
def State.setCard (c : CardId) (r : CardRecord) (s : State) : State :=
  s.withView { s.view with cards := setAt s.view.cards c r }

/-! ### Monitors -/

/-- The monitor of port `p` replaced. -/
def State.setMonitor (p : Port) (m : Monitor) (s : State) : State :=
  s.withMonitors (setAt s.monitors p m)

/-- A due flag raised (R76). -/
def State.raiseDue (f : FrameClass) (s : State) : State := s.withSender (s.sender.raise f)

/-- A change of port `p`'s reported status from `old` is handed to the sending side (R72) and the Uplink View (R38); a
transition that leaves the status unchanged hands on nothing (R13). -/
def State.handStatus (p : Port) (old : PortStatus) (s : State) : State :=
  if old = s.reported p then s
  else
    (match dueFor old (s.reported p) with
      | some f => s.raiseDue f
      | none => s).refind (uplinkOf s.start.cardId p)

end Sys2Proof.Machine
end

