-- ==== Sys2Proof/Machine/Spread.lean ====
section
/-! DEFINITION. What a reconcile computes from a record and a snapshot: tier choice, quotas, home fill and requota
(spec/06_protection_groups_and_the_spread.md sections 6.4 to 6.8). -/

namespace Sys2Proof.Machine

/-! ### Records -/

/-- The filled places of a record, in ascending member index. -/
def Record.members (r : Record) : List (MemberIdx × Seat) :=
  (List.finRange 8).filterMap fun i => r.seats[i].map fun m => (i, m)

/-- The uplinks a record names: its members', then its escape's (R91). -/
def Record.named (r : Record) : List Uplink :=
  (r.members.map fun m => m.2.uplink) ++ r.escape.toList

/-- Does a record name `u` as a member or as its escape (R91)? -/
def Record.names (r : Record) (u : Uplink) : Bool := r.named.contains u

/-- The member indexes of a tier whose uplinks are ADMITTED, ascending: A0 and A1 of R94. -/
def Record.admittedOf (r : Record) (t : Tier) (adm : Uplink → Bool) : List MemberIdx :=
  (r.members.filter fun m => m.2.tier == t && adm m.2.uplink).map fun m => m.1

/-- The weight of a member, 0 for an empty place. -/
def Record.weight (r : Record) (i : MemberIdx) : Nat := (r.seats[i].map fun m => m.weight).getD 0

/-! ### Tier choice (R94) -/

/-- The recorded active tier of a mode (R94). -/
def Mode.activeTier : Mode → ActiveTier
  | .unused => .none
  | .tier0 => .tier .t0
  | .tier0Short => .tier .t0
  | .tier1 => .tier .t1
  | .escape => .escape
  | .dark => .none

/-- Does the record have an escape that is ADMITTED? -/
def Record.escapeAdmitted (r : Record) (adm : Uplink → Bool) : Bool :=
  match r.escape with
  | some e => adm e
  | none => false

/-- The new mode and active set: the first of the six cases of R94 that holds. -/
def tierChoice (r : Record) (current : Mode) (adm : Uplink → Bool) : Mode × ActiveSet :=
  let a0 := r.admittedOf .t0 adm
  let a1 := r.admittedOf .t1 adm
  if !r.revertive && current == .tier1 && !a1.isEmpty then (.tier1, .members a1)
  else if r.minLive ≤ a0.length then (.tier0, .members a0)
  else if !a1.isEmpty then (.tier1, .members a1)
  else if !a0.isEmpty then (.tier0Short, .members a0)
  else if r.escapeAdmitted adm then (.escape, .escape)
  else (.dark, .empty)

/-! ### Quotas (R96) -/

/-- The sum of the weights of a set. -/
def totalWeight (w : MemberIdx → Nat) (set : List MemberIdx) : Nat := (set.map w).sum

/-- floor(64 × w / W). -/
def baseQuota (w : MemberIdx → Nat) (set : List MemberIdx) (i : MemberIdx) : Nat := 64 * w i / totalWeight w set

/-- (64 × w) mod W. -/
def remQuota (w : MemberIdx → Nat) (set : List MemberIdx) (i : MemberIdx) : Nat := 64 * w i % totalWeight w set

/-- R: the slots left after the bases. -/
def extraSlots (w : MemberIdx → Nat) (set : List MemberIdx) : Nat := 64 - (set.map (baseQuota w set)).sum

/-- How many members of the set come before `i` for an extra slot: a larger remainder, or an equal one at a lower index. -/
def extraRank (w : MemberIdx → Nat) (set : List MemberIdx) (i : MemberIdx) : Nat :=
  set.countP fun j =>
    decide (remQuota w set i < remQuota w set j) || (remQuota w set j == remQuota w set i && decide (j < i))

/-- The quota of a member of the set (R96). -/
def quota (w : MemberIdx → Nat) (set : List MemberIdx) (i : MemberIdx) : Nat :=
  baseQuota w set i + (if extraRank w set i < extraSlots w set then 1 else 0)

/-! ### Filling -/

/-- A spread from the list of its occupants, slot 0 first. -/
def spreadOf (l : List Occupant) : Spread := Vector.ofFn fun i => l.getD i.val .empty

/-- A round of home fill: the member at the head receives a slot and goes to the back with one less of its quota; one whose
quota is used up leaves the round (R98). -/
def dealRound : Nat → List (MemberIdx × Nat) → List Occupant
  | 0, _ => []
  | _ + 1, [] => []
  | n + 1, (i, k) :: rest => .member i :: dealRound n (if k ≤ 1 then rest else rest ++ [(i, k - 1)])

/-- Home fill over a set taken in ascending member index; members of quota 0 are passed over from the first slot (R98). -/
def homeFill (w : MemberIdx → Nat) (set : List MemberIdx) : Spread :=
  spreadOf (dealRound 64 ((set.map fun i => (i, quota w set i)).filter fun m => m.2 != 0))

/-- Steps 2 and 3 of requota: scanning the slots in ascending order, a member of the set keeps its slots up to its quota; the
others, shown as `none`, are the pool. `held` lists the slots kept so far. -/
def keepSlots (w : MemberIdx → Nat) (set : List MemberIdx) : List Occupant → List MemberIdx → List (Option MemberIdx)
  | [], _ => []
  | .member i :: rest, held =>
    if set.contains i && decide (held.count i < quota w set i) then some i :: keepSlots w set rest (i :: held)
    else none :: keepSlots w set rest held
  | .escape :: rest, held => none :: keepSlots w set rest held
  | .empty :: rest, held => none :: keepSlots w set rest held

/-- The member with the largest shortfall, the lowest index among equals; none for an empty list (R99, step 5). -/
def largestShort : List (MemberIdx × Nat) → Option (MemberIdx × Nat)
  | [] => none
  | m :: rest =>
    match largestShort rest with
    | none => some m
    | some b => if m.2 < b.2 then some b else some m

/-- The pool slots dealt in ascending order, each to the largest shortfall (R99, steps 4 and 5). -/
def dealPool : List (Option MemberIdx) → List (MemberIdx × Nat) → List Occupant
  | [], _ => []
  | some i :: rest, short => .member i :: dealPool rest short
  | none :: rest, short =>
    match largestShort short with
    | some (i, k) =>
      .member i :: dealPool rest (short.map fun m => if m.1 = i then (i, k - 1) else m)
    | none => .empty :: dealPool rest short

/-- Requota from an old spread to a new set (R99). -/
def requota (w : MemberIdx → Nat) (set : List MemberIdx) (old : Spread) : Spread :=
  let kept := keepSlots w set old.toList []
  spreadOf (dealPool kept (set.map fun i => (i, quota w set i - kept.count (some i))))

/-- The new spread (R95): the fixed fills, a home fill at a change of tier or at an installation, else a requota. -/
def newSpread (r : Record) (set : ActiveSet) (oldTier newTier : ActiveTier) (install : Bool) (old : Spread) : Spread :=
  match set with
  | .members m => if install || oldTier != newTier then homeFill r.weight m else requota r.weight m old
  | .escape => Vector.replicate 64 .escape
  | .empty => Vector.replicate 64 .empty

/-- The slots whose occupants differ (R100). -/
def slotsMoved (old new : Spread) : Nat := (List.finRange 64).countP fun i => old[i] != new[i]

/-- The 64 empty slots of an UNUSED group. -/
def emptySpread : Spread := Vector.replicate 64 .empty

/-- A group reconciled over its installed record (R93 to R100). -/
def Group.reconciled (g : Group) (adm : Uplink → Bool) : Group :=
  let c := tierChoice g.record g.mode adm
  { g with
    mode := c.1
    tier := c.1.activeTier
    set := c.2
    spread := newSpread g.record c.2 g.tier c.1.activeTier false g.spread }

/-- A group installed from a pending record (R102): the tier is chosen over the new record with the mode the group had, and
the fill is never a requota. -/
def installed (n : GroupNo) (r : Record) (oldMode : Mode) (adm : Uplink → Bool) : Group :=
  let c := tierChoice r oldMode adm
  { number := n
    record := r
    mode := c.1
    tier := c.1.activeTier
    set := c.2
    spread := newSpread r c.2 .none c.1.activeTier true emptySpread }

end Sys2Proof.Machine
end

