-- ==== Sys2Proof/Machine/Groups.lean ====
section
/-! DEFINITION. Access to the Group Store, the replacement of a group with what it hands on (R101 to R103), and the walks of the
Repair Engine (R114 to R118). -/

namespace Sys2Proof.Machine

/-! ### Access -/

/-- The group of a number, none when it is UNUSED. -/
def Store.find (st : Store) (g : GroupNo) : Option Group := st.groups.find? fun x => x.number == g

/-- A group in its ascending place in the list. -/
def placeGroup (x : Group) : List Group → List Group
  | [] => [x]
  | y :: ys => if x.number < y.number then x :: y :: ys else y :: placeGroup x ys

/-- The list without a group. -/
def dropGroupNo (g : GroupNo) (l : List Group) : List Group := l.filter fun x => x.number != g

/-- The groups with a group's fields replaced in one step. -/
def Store.put (st : Store) (x : Group) : Store :=
  { st with groups := placeGroup x (dropGroupNo x.number st.groups) }

/-- The groups with `g` UNUSED. -/
def Store.remove (st : Store) (g : GroupNo) : Store := { st with groups := dropGroupNo g st.groups }

/-- The mode of a group (R89). -/
def Store.modeOf (st : Store) (g : GroupNo) : Mode := ((st.find g).map fun x => x.mode).getD .unused

/-- The spread of a group; every slot of an UNUSED one is empty (R90). -/
def Store.spreadFor (st : Store) (g : GroupNo) : Spread := ((st.find g).map fun x => x.spread).getD emptySpread

/-- The pending record held for a group (R148). -/
def Store.pendingFor (st : Store) (g : GroupNo) : Option PendingKind :=
  (st.pool.find? fun x => x.group == g).map fun x => x.kind

/-- The pending flag of a group (R89, R148). -/
def Store.pendingFlag (st : Store) (g : GroupNo) : Bool := (st.pendingFor g).isSome

/-- Does group `g`'s installed record name `u`? -/
def Store.namesUplink (st : Store) (g : GroupNo) (u : Uplink) : Bool :=
  match st.find g with
  | some x => x.record.names u
  | none => false

/-- The member lists as `g`'s record changes (R92): inserted where the new record names the uplink and the old did not, taken
out where the old did and the new does not, else kept. -/
def relist (g : GroupNo) (old new : Uplink → Bool) (lists : Vector (List GroupNo) 128) : Vector (List GroupNo) 128 :=
  Vector.ofFn fun u =>
    if new u && !old u then insertAsc g lists[u]
    else if old u && !new u then removeAsc g lists[u]
    else lists[u]

/-! ### The outcome of a reconcile, installation or release -/

/-- What the replacement of group `g` hands on (R101, R123): the drop if a slot changed, the GROUP_MODE record if the mode
changed, and the counts of the open episode. -/
def State.handOutcome (g : GroupNo) (oldMode newMode : Mode) (moved : Nat) (s : State) : State :=
  let s1 := if moved = 0 then s else s.putGroupDrop g
  let s2 := if oldMode = newMode then s1 else s1.append (.groupMode g newMode)
  s2.withEngine { s2.engine with
    episode := s2.engine.episode.map fun e =>
      { e with
        groups := if moved = 0 then e.groups else insertAsc g e.groups
        slotsMoved := addCount e.slotsMoved moved } }

/-- The uplinks, of those a record names, that are ADMITTED now (R93). -/
def State.snapshotOf (s : State) (r : Record) : List Uplink := r.named.filter fun u => s.isAdmitted u

/-- The snapshot for a group's reconcile. -/
def State.snapshotFor (s : State) (g : GroupNo) : List Uplink :=
  match s.store.find g with
  | some x => s.snapshotOf x.record
  | none => []

/-- Group `g` reconciled with a snapshot; an UNUSED group is left as it is (R93, R101). -/
def State.reconcileGroup (g : GroupNo) (snapshot : List Uplink) (s : State) : State :=
  match s.store.find g with
  | none => s
  | some x =>
    let y := x.reconciled fun u => snapshot.contains u
    (s.withStore (s.store.put y)).handOutcome g x.mode y.mode (slotsMoved x.spread y.spread)

/-- A pending group record installed for `g` (R102). -/
def State.installGroup (g : GroupNo) (r : Record) (snapshot : List Uplink) (s : State) : State :=
  let y := installed g r (s.store.modeOf g) fun u => snapshot.contains u
  let lists := relist g (fun u => s.store.namesUplink g u) (fun u => r.names u) s.store.memberLists
  (s.withStore { s.store.put y with memberLists := lists }).handOutcome g (s.store.modeOf g) y.mode
    (slotsMoved (s.store.spreadFor g) y.spread)

/-- A pending release installed for `g` (R103). -/
def State.releaseGroup (g : GroupNo) (s : State) : State :=
  let lists := relist g (fun u => s.store.namesUplink g u) (fun _ => false) s.store.memberLists
  (s.withStore { s.store.remove g with memberLists := lists }).handOutcome g (s.store.modeOf g) .unused
    (slotsMoved (s.store.spreadFor g) emptySpread)

/-! ### Walks -/

/-- The lowest number of an ascending list above a walk position, or its lowest when there is none (R114). -/
def nextAbove (position : Option GroupNo) (l : List GroupNo) : Option GroupNo :=
  match position with
  | none => l.head?
  | some p => l.find? fun g => decide (p < g)

/-- The groups a SWEEP reconciles: those that are not UNUSED, ascending (R118). -/
def Store.used (st : Store) : List GroupNo := st.groups.map fun x => x.number

/-- The list a job walks: its uplink's member list as it stands, or every group for a SWEEP; a BUILD walks nothing. -/
def State.walkList (s : State) : Job → List GroupNo
  | .urgent u _ => s.store.memberLists[u]
  | .calm u _ => s.store.memberLists[u]
  | .sweep _ => s.store.used
  | .build _ _ _ => []

/-- The walk of a job. -/
def Job.walk? : Job → Option Walk
  | .urgent _ w => some w
  | .calm _ w => some w
  | .sweep w => some w
  | .build _ _ _ => none

/-- A job with another walk. -/
def Job.withWalk (w : Walk) : Job → Job
  | .urgent u _ => .urgent u w
  | .calm u _ => .calm u w
  | .sweep _ => .sweep w
  | .build g k n => .build g k n

/-- May the job be suspended (R113, R116)? -/
def Job.suspendable : Job → Bool
  | .urgent _ _ => false
  | .calm _ _ => true
  | .sweep _ => true
  | .build _ _ _ => false

/-- The engine goes on with a walk: to the next group above `position`, with a fresh snapshot, or, with none left, to its
completion (R114, R118). -/
def State.walkOn (job : Job) (position : Option GroupNo) (s : State) : State :=
  match nextAbove position (s.walkList job) with
  | none => s.completeJob
  | some g => s.withEngine { s.engine with job := some (job.withWalk ⟨position, g, s.snapshotFor g⟩) }

/-- A suspended job returns to the head of its class with its walk position; a CALM job for whose uplink an entry already waits
is discarded (R117). -/
def State.suspend (job : Job) (position : GroupNo) (s : State) : State :=
  match job with
  | .calm u _ =>
    if waitingIn s.engine.urgent u || waitingIn s.engine.calm u then s.withEngine { s.engine with job := none }
    else s.withEngine { s.engine with job := none, calm := ⟨u, some position⟩ :: s.engine.calm }
  | .sweep _ => s.withEngine { s.engine with job := none, sweep := some ⟨some position⟩ }
  | .urgent _ _ => s
  | .build _ _ _ => s

/-- The group boundary of a walk (R116): with none left it completes; else a CALM or SWEEP walk is suspended when an URGENT
entry waits; else it goes on. -/
def State.boundary (job : Job) (position : GroupNo) (s : State) : State :=
  if (nextAbove (some position) (s.walkList job)).isSome && job.suspendable && !s.engine.urgent.isEmpty then
    s.suspend job position
  else s.walkOn job (some position)

end Sys2Proof.Machine
end

