-- ==== Sys2Proof/Machine/LookupPort.lean ====
section
/-! DEFINITION. The commands of the Lookup Unit: requests, answers with the patch rule, drops and the answer-channel arbiter
(spec/08_lookup_service.md, spec/12_formats.md section 12.3). -/

namespace Sys2Proof.Machine

/-- The ready line (R127): SERVE with fewer than 16 requests outstanding. -/
def State.ready (s : State) : Bool := s.isServe && decide (s.lookup.queue.length < Config.queuePlaces)

/-- LOOKUP_REQUEST (R127, R128): taken while ready is asserted, else not taken and not remembered. -/
def execLookupRequest (word : BitVec 34) (s : State) : Host.Outcome State Fault Refusal :=
  .next <|
    if s.ready then s.withLookup { s.lookup with queue := s.lookup.queue ++ [requestOf word] } else s

/-! ### Computing an answer (R130, R131) -/

/-- The other tier. -/
def Tier.other : Tier → Tier
  | .t0 => .t1
  | .t1 => .t0

/-- The tier of level 1 of the patch rule (R131). -/
def ActiveTier.patchTier : ActiveTier → Tier
  | .tier t => t
  | .escape => .t0
  | .none => .t0

/-- The candidates of a tier in ascending member index, each with its uplink (R131). -/
def Record.candidates (r : Record) (t : Tier) (adm : Uplink → Bool) : List Uplink :=
  (r.members.filter fun m => m.2.tier == t && adm m.2.uplink).map fun m => m.2.uplink

/-- Candidate number h mod n (R131). -/
def pick (h : BitVec 16) (found : List Uplink) : Option Uplink := found[h.toNat % found.length]?

/-- The patch rule (R131). -/
def patchAnswer (r : Record) (tier : ActiveTier) (adm : Uplink → Bool) (h : BitVec 16) : Answer :=
  let t := tier.patchTier
  match pick h (r.candidates t adm) with
  | some u => .patched u t
  | none =>
    match pick h (r.candidates t.other adm) with
    | some u => .patched u t.other
    | none =>
      match r.escape with
      | some e => if adm e then .escape e else .discard
      | none => .discard

/-- The slot of a hash, floor(h / 1024) (R130). -/
def slotOf (h : BitVec 16) : Slot := (h.extractLsb' 10 6).toFin

/-- The answer straight from a slot's occupant, none where the patch rule gives it (R130, steps 3 to 5). -/
def slotAnswer (r : Record) (adm : Uplink → Bool) : Occupant → Option Answer
  | .member i =>
    match r.seats[i] with
    | some m => if adm m.uplink then some (.normal m.uplink m.tier) else none
    | none => none
  | .escape =>
    match r.escape with
    | some e => if adm e then some (.escape e) else none
    | none => none
  | .empty => none

/-- An answer with whether it came from the patch rule (R130, R133). -/
def State.answerFor (s : State) (q : Request) : Answer × Bool :=
  match s.store.find q.group with
  | none => (.noRoute, false)
  | some g =>
    match slotAnswer g.record s.isAdmitted g.spread[slotOf q.hash] with
    | some a => (a, false)
    | none => (patchAnswer g.record g.tier s.isAdmitted q.hash, true)

/-- The counter an answer increments (R133). -/
def Lookup.count (a : Answer) (patched : Bool) (l : Lookup) : Lookup :=
  match a with
  | .normal _ _ => l
  | .patched _ _ => { l with patched := satInc l.patched }
  | .escape _ => if patched then { l with patched := satInc l.patched } else l
  | .discard => { l with discarded := satInc l.discarded }
  | .noRoute => { l with noRoute := satInc l.noRoute }

/-! ### The answer-channel arbiter (R137, R138) -/

/-- The message kind and subject the arbiter chooses. -/
inductive Choice where
  | answer (q : Request)
  | dropUplink (u : Uplink)
  | dropGroup (g : GroupNo)
  | dropAll
  | nothing
  deriving DecidableEq, Repr

/-- The arbiter's choice at a take (R137); the channel emits nothing outside SERVE (R129). -/
def State.channelChoice (s : State) : Choice :=
  if !s.isServe then .nothing
  else if s.lookup.dropAll then .dropAll
  else
    match s.lookup.dropUplinks, s.lookup.queue, s.lookup.dropGroups with
    | u :: _, _, _ => .dropUplink u
    | [], q :: _, g :: _ =>
      match s.lookup.lastKind with
      | .answer => .dropGroup g
      | .dropGroup => .answer q
    | [], q :: _, [] => .answer q
    | [], [], g :: _ => .dropGroup g
    | [], [], [] => .nothing

/-- ANSWER (R130, R137): when the arbiter chooses another kind, no ANSWER is taken and nothing happens (log 3). -/
def execAnswer (s : State) : Host.Outcome State Fault Refusal :=
  .next <|
    match s.channelChoice with
    | .answer q =>
      let a := s.answerFor q
      s.withLookup
        (Lookup.count a.1 a.2
          { s.lookup with
            queue := s.lookup.queue.tail
            lastKind := .answer
            emitted := some (.answer q.tag a.1) })
    | .dropUplink _ => s
    | .dropGroup _ => s
    | .dropAll => s
    | .nothing => s

/-- DROP_UPLINK (R134, R137): the lowest of the set is emitted and leaves it. -/
def execDropUplink (s : State) : Host.Outcome State Fault Refusal :=
  .next <|
    match s.channelChoice with
    | .dropUplink u =>
      s.withLookup { s.lookup with
        dropUplinks := removeAsc u s.lookup.dropUplinks
        emitted := some (.dropUplink u) }
    | .answer _ => s
    | .dropGroup _ => s
    | .dropAll => s
    | .nothing => s

/-- DROP_GROUP (R135, R137, R138). -/
def execDropGroup (s : State) : Host.Outcome State Fault Refusal :=
  .next <|
    match s.channelChoice with
    | .dropGroup g =>
      s.withLookup { s.lookup with
        dropGroups := removeAsc g s.lookup.dropGroups
        lastKind := .dropGroup
        emitted := some (.dropGroup g) }
    | .answer _ => s
    | .dropUplink _ => s
    | .dropAll => s
    | .nothing => s

/-- DROP_ALL (R136, R137): the flag is cleared and both sets emptied. -/
def execDropAll (s : State) : Host.Outcome State Fault Refusal :=
  .next <|
    match s.channelChoice with
    | .dropAll =>
      s.withLookup { s.lookup with
        dropAll := false
        dropUplinks := []
        dropGroups := []
        emitted := some .dropAll }
    | .answer _ => s
    | .dropUplink _ => s
    | .dropGroup _ => s
    | .nothing => s

/-! ### The answer channel's words (section 12.3, R178) -/

/-- The code of an answer class (section 12.1). -/
def Answer.code : Answer → BitVec 3
  | .normal _ _ => 0#3 | .patched _ _ => 1#3 | .escape _ => 2#3 | .discard => 3#3 | .noRoute => 4#3

/-- The code of a tier. -/
def Tier.code : Tier → BitVec 1
  | .t0 => 0#1 | .t1 => 1#1

/-- The tier field; 0 for a class with no tier (R178). -/
def Answer.tierBit : Answer → BitVec 1
  | .normal _ t => t.code | .patched _ t => t.code | .escape _ => 0#1 | .discard => 0#1 | .noRoute => 0#1

/-- An uplink number in 7 bits. -/
def uplinkBits (u : Uplink) : BitVec 7 := BitVec.ofFin (w := 7) u

/-- The uplink field; 0 for a class with no uplink (R178). -/
def Answer.uplinkField : Answer → BitVec 7
  | .normal u _ => uplinkBits u | .patched u _ => uplinkBits u | .escape u => uplinkBits u | .discard => 0#7 | .noRoute => 0#7

/-- The uplink an answer names (R129). -/
def Answer.uplink : Answer → Option Uplink
  | .normal u _ => some u | .patched u _ => some u | .escape u => some u | .discard => none | .noRoute => none

/-- The 24-bit word of a message. -/
def Message.word : Message → BitVec 24
  | .answer tag a => 0#2 ++ tag ++ a.code ++ a.tierBit ++ 0#3 ++ a.uplinkField
  | .dropUplink u => 1#2 ++ 0#15 ++ uplinkBits u
  | .dropGroup g => 2#2 ++ 0#12 ++ BitVec.ofFin (w := 10) g
  | .dropAll => 3#2 ++ 0#22

/-- What the channel offers now, none when nothing waits or outside SERVE (R129, R137, R178); a take emits it, and the answer in it is
computed against the state as it stands. -/
def State.offered (s : State) : Option Message :=
  match s.channelChoice with
  | .answer q => some (.answer q.tag (s.answerFor q).1)
  | .dropUplink u => some (.dropUplink u)
  | .dropGroup g => some (.dropGroup g)
  | .dropAll => some .dropAll
  | .nothing => none

/-- The answer channel's valid line: low while the channel has nothing to offer (section 12.3, R178). -/
def State.answerValid (s : State) : Bool := s.offered.isSome

/-- The word on the answer channel now. -/
def State.offeredWord (s : State) : Option (BitVec 24) := s.offered.map Message.word

/-- The word that passed last on the answer channel. -/
def State.answerWord (s : State) : Option (BitVec 24) := s.lookup.emitted.map Message.word

end Sys2Proof.Machine
end

