-- ==== Sys2Proof/Machine/Monitors.lean ====
section
/-! DEFINITION. The commands of the Light Monitors and of flap damping (spec/01_light_monitors.md, spec/02_flap_damping.md). -/

namespace Sys2Proof.Machine

/-- The level of port `p`'s light line. -/
def State.setLight (p : Port) (level : Bool) (s : State) : State :=
  s.withPins { s.pins with light := setAt s.pins.light p level }

/-- The loss debounce in force, in µs (R2). -/
def State.lossDebounce (s : State) : Nat := 10 * s.start.settings.lossDebounce

/-- The return debounce in force, in µs (R2). -/
def State.returnDebounce (s : State) : Nat := ms s.start.settings.returnDebounce

/-- A light fall at a monitor (R5, R9): the table of section 1.7, where a dash changes nothing. -/
def MonitorState.fall (lossOut : Nat) : MonitorState → MonitorState
  | .up => .fading .up lossOut
  | .held => .fading .held lossOut
  | .returning _ => .dark
  | .off => .off
  | .fading o t => .fading o t
  | .dark => .dark

/-- A light rise at a monitor (R6, R8): a glitch returns it to its origin and is counted. -/
def Monitor.rise (returnOut : Nat) (m : Monitor) : Monitor :=
  match m.state with
  | .dark => { m with state := .returning returnOut }
  | .fading .up _ => { m with state := .up, glitches := satInc m.glitches }
  | .fading .held _ => { m with state := .held, glitches := satInc m.glitches }
  | .off => m
  | .up => m
  | .returning _ => m
  | .held => m

/-- LIGHT_FALL (R4, R5, R9). Until the end of loading the monitors do not act (R15); a line already low does not fall. -/
def execLightFall (p : Port) (s : State) : Host.Outcome State Fault Refusal :=
  .next <|
    if s.pins.light[p] then
      let t := s.setLight p false
      if t.isLoading then t
      else t.setMonitor p
        { t.monitors[p] with state := t.monitors[p].state.fall (t.clock.now + t.lossDebounce) }
    else s

/-- LIGHT_RISE (R4, R6, R8). Until the end of loading the monitors do not act (R15); a line already high does not rise. -/
def execLightRise (p : Port) (s : State) : Host.Outcome State Fault Refusal :=
  .next <|
    if s.pins.light[p] then s
    else
      let t := s.setLight p true
      if t.isLoading then t
      else t.setMonitor p (t.monitors[p].rise (t.clock.now + t.returnDebounce))

/-- The charge (R20, R27): the figure rises by C to at most 8191, and at S or more the flag is set. -/
def Monitor.charge (c : Settings) (m : Monitor) : Monitor :=
  let figure := min (m.penalty + c.charge) Config.penaltyMax
  { m with penalty := figure, suppressed := m.suppressed || decide (c.suppress ≤ figure) }

/-- A confirmed loss at a monitor (R7): DARK, charged and counted. -/
def Monitor.confirmLoss (c : Settings) (m : Monitor) : Monitor :=
  { m.charge c with state := .dark, losses := satInc m.losses }

/-- LOSS_TIMER_EXPIRY (R7): the change to LOST is handed on with the charge complete. -/
def execLossTimerExpiry (p : Port) (s : State) : Host.Outcome State Fault Refusal :=
  .next <|
    match s.monitors[p].state with
    | .fading _ out =>
      let t := s.advanceTo out
      (t.setMonitor p (t.monitors[p].confirmLoss t.start.settings)).handStatus p (s.reported p)
    | .off => s
    | .up => s
    | .dark => s
    | .returning _ => s
    | .held => s

/-- RETURN_TIMER_EXPIRY (R10): HELD when the suppressed flag is set, else UP. -/
def execReturnTimerExpiry (p : Port) (s : State) : Host.Outcome State Fault Refusal :=
  .next <|
    match s.monitors[p].state with
    | .returning out =>
      let t := s.advanceTo out
      (t.setMonitor p
        { t.monitors[p] with state := if t.monitors[p].suppressed then .held else .up }).handStatus p (s.reported p)
    | .off => s
    | .up => s
    | .fading _ _ => s
    | .dark => s
    | .held => s

/-- The decrement of a figure (R23): floor(P × r / 1024), at least 1 for a positive figure. -/
def decrement (rate figure : Nat) : Nat :=
  if figure * rate / 1024 = 0 ∧ 0 < figure then 1 else figure * rate / 1024

/-- What a tick that clears the flag does to a monitor's state (R11, R12, R24). -/
def MonitorState.released : MonitorState → MonitorState
  | .held => .up
  | .fading .held t => .fading .up t
  | .fading .up t => .fading .up t
  | .off => .off
  | .up => .up
  | .dark => .dark
  | .returning t => .returning t

/-- A decay tick at a monitor that is not in OFF (R23, R24). -/
def Monitor.decayed (c : Settings) (m : Monitor) : Monitor :=
  let figure := m.penalty - decrement c.decayRate m.penalty
  if m.suppressed && decide (figure ≤ c.reuse) then
    { m with penalty := figure, suppressed := false, state := m.state.released }
  else { m with penalty := figure }

/-- A decay tick at port `p`: one in OFF is passed by (R1, R23), and a change of status is handed on (R24). -/
def State.decayPort (s : State) (p : Port) : State :=
  if s.monitors[p].state = .off then s
  else (s.setMonitor p (s.monitors[p].decayed s.start.settings)).handStatus p (s.reported p)

/-- DECAY_TICK (R22, R23): every port, in ascending order where one step hands on more than one change (log 9); the next tick
falls one T after this one. -/
def execDecayTick (s : State) : Host.Outcome State Fault Refusal :=
  .next <|
    match s.clock.nextTick with
    | none => s
    | some time =>
      let t := s.advanceTo time
      let u := t.withClock { t.clock with nextTick := some (time + ms t.start.settings.decayTick) }
      (List.finRange 8).foldl State.decayPort u

end Sys2Proof.Machine
end

