-- ==== Sys2Proof/Machine/ViewEvents.lean ====
section
/-! DEFINITION. The commands of the Uplink View, and what frames and isolation do to it (spec/03_the_uplink_view.md). -/

namespace Sys2Proof.Machine

/-- The presence window in force, in µs (R30). -/
def State.presenceWindow (s : State) : Nat := ms s.start.settings.presenceWindow

/-- ADMISSION_DEADLINE (R33): a SETTLING entry moves to ADMITTED. -/
def execAdmissionDeadline (u : Uplink) (s : State) : Host.Outcome State Fault Refusal :=
  .next <|
    match s.view.entries[u].state with
    | .settling deadline =>
      (s.advanceTo deadline).moveEntry u { s.view.entries[u] with state := .admitted }
    | .admitted => s
    | .dark _ => s

/-- Card `c` becomes ABSENT (R43): its card record first (R36), and before every notice of the event (the model's choice, log 8). -/
def State.loseCard (c : CardId) (s : State) : State :=
  ((s.setCard c { s.view.cards[c] with presence := .absent, recheck := false }).append (.cardLost c)).refindAll
    (uplinksOf c)

/-- The time of a presence deadline that is running. -/
def Presence.dueTime : Presence → Option Nat
  | .present (.due t) => some t
  | .withdrawn (.due t) => some t
  | .present .suspended => none
  | .withdrawn .suspended => none
  | .self => none
  | .unheard => none
  | .absent => none

/-- PRESENCE_DEADLINE (R43): not while it is suspended. -/
def execPresenceDeadline (c : CardId) (s : State) : Host.Outcome State Fault Refusal :=
  .next <|
    match s.view.cards[c].presence.dueTime with
    | some t => (s.advanceTo t).loseCard c
    | none => s

/-- What a non-WITHDRAW frame journals (R41). -/
def Presence.seenRecord (c : CardId) : Presence → Option JournalBody
  | .unheard => some (.cardSeen c)
  | .absent => some (.cardSeen c)
  | .withdrawn _ => some (.cardReturned c)
  | .present _ => none
  | .self => none

/-- What a WITHDRAW frame journals (R42). -/
def Presence.withdrawRecord (c : CardId) : Presence → Option JournalBody
  | .withdrawn _ => none
  | .unheard => some (.cardWithdrawn c)
  | .absent => some (.cardWithdrawn c)
  | .present _ => some (.cardWithdrawn c)
  | .self => some (.cardWithdrawn c)

/-- A record appended if there is one. -/
def State.appendIf (b : Option JournalBody) (s : State) : State :=
  match b with
  | some x => s.append x
  | none => s

/-- A valid frame of card `c` applied to its record and entries (R41, R42): the card record first (R36), and before every notice of the
event (the model's choice, log 8); all eight entries before any other command (the model's choice, log 25). -/
def State.applyFrame (c : CardId) (cls : FrameClass) (st : Statuses) (s : State) : State :=
  let due := PresenceDeadline.due (s.clock.now + s.presenceWindow)
  let old := s.view.cards[c].presence
  let presence := if cls = .withdraw then Presence.withdrawn due else Presence.present due
  let record := if cls = .withdraw then old.withdrawRecord c else old.seenRecord c
  ((s.setCard c ⟨presence, some st, false⟩).appendIf record).refindAll (uplinksOf c)

/-- A presence with its running deadline suspended (R44). -/
def Presence.suspend : Presence → Presence
  | .present _ => .present .suspended
  | .withdrawn _ => .withdrawn .suspended
  | .self => .self
  | .unheard => .unheard
  | .absent => .absent

/-- A presence with a suspended deadline restarted (R46). -/
def Presence.resume (time : Nat) : Presence → Presence
  | .present .suspended => .present (.due time)
  | .withdrawn .suspended => .withdrawn (.due time)
  | .present (.due t) => .present (.due t)
  | .withdrawn (.due t) => .withdrawn (.due t)
  | .self => .self
  | .unheard => .unheard
  | .absent => .absent

/-- PRESENT or WITHDRAWN: the cards that have been heard and not lost. -/
def Presence.heard : Presence → Bool
  | .present _ => true
  | .withdrawn _ => true
  | .self => false
  | .unheard => false
  | .absent => false

/-- The uplinks of every card but the own, ascending. -/
def State.remoteUplinks (s : State) : List Uplink :=
  (List.finRange 128).filter fun u => cardOf u != s.start.cardId

/-- The report of isolation (R44, R45). -/
def State.isolationStart (s : State) : State :=
  let localOnly := s.start.settings.policy == .localOnly
  let t := s.withView { s.view with
    isolated := true
    cards := Vector.ofFn fun c =>
      { s.view.cards[c] with
        presence := s.view.cards[c].presence.suspend
        recheck := s.view.cards[c].recheck || (localOnly && s.view.cards[c].presence.heard) } }
  if localOnly then t.refindAll t.remoteUplinks else t

/-- The report of the end of isolation (R46). -/
def State.isolationEnd (s : State) : State :=
  s.withView { s.view with
    isolated := false
    cards := Vector.ofFn fun c =>
      { s.view.cards[c] with presence := s.view.cards[c].presence.resume (s.clock.now + s.presenceWindow) } }

end Sys2Proof.Machine
end

