-- ==== Sys2Proof/Machine/NoticeBus.lean ====
section
/-! DEFINITION. The commands of the Notice Bus Controller and its sending side (spec/04_the_notice_bus.md,
spec/05_announcing_and_hearing_status.md). -/

namespace Sys2Proof.Machine

/-- The states in which the controller receives (R52). -/
def BusState.receives : BusState → Bool
  | .open => true
  | .muted _ => true
  | .clashed => true
  | .stopped => false
  | .fault => false

/-- Does the part drive the notice bus line (R49)? Only inside a frame it is sending. -/
def State.drivesLine (s : State) : Bool :=
  match s.bus.framer with
  | .sending _ _ _ => true
  | .off => false
  | .gap _ => false
  | .receiving _ _ => false

/-- The 48 bits after the start bit of the frame that is being sent, none when the line is released (R49, R51, R78). -/
def State.lineFrame (s : State) : Option (BitVec 48) :=
  match s.bus.framer with
  | .sending cls st _ => some (frameBits cls s.start.cardId st)
  | .off => none
  | .gap _ => none
  | .receiving _ _ => none

/-- The framer replaced. -/
def State.setFramer (f : Framer) (s : State) : State := s.withBus { s.bus with framer := f }

/-! ### Receiving -/

/-- A framing error counted, not for a frame in which this chip aborted (R55, R56, R60). -/
def State.framingError (aborted : Bool) (s : State) : State :=
  if aborted then s else s.withBus { s.bus with framingErrors := satInc s.bus.framingErrors }

/-- A CRC error counted, not for a frame in which this chip aborted (R56, R60). -/
def State.crcError (aborted : Bool) (s : State) : State :=
  if aborted then s else s.withBus { s.bus with crcErrors := satInc s.bus.crcErrors }

/-- The entry to CLASHED (R66): the clash mark is set, a mute timer is discarded, CLASH is journalled. -/
def State.enterClashed (s : State) : State :=
  (s.withBus { s.bus with ctl := .clashed, clashMark := true }).append (.clash s.start.cardId)

/-- The controller is not yet CLASHED and may become so: OPEN or MUTED (R66). -/
def BusState.clashable : BusState → Bool
  | .open => true
  | .muted _ => true
  | .clashed => false
  | .stopped => false
  | .fault => false

/-- A valid frame disposed of by its card id (R57): this chip's own completed frames come by FRAME_COMPLETE. -/
def State.dispose (card : CardId) (cls : FrameClass) (st : Statuses) (s : State) : State :=
  let t := s.withBus { s.bus with framesReceived := satInc s.bus.framesReceived }
  if card = s.start.cardId then (if s.bus.ctl.clashable then t.enterClashed else t)
  else t.applyFrame card cls st

/-- A frame judged at its 49th bit (R56). -/
def State.judge (aborted : Bool) (bits : BitVec 48) (s : State) : State :=
  if frameEndBits bits ≠ 3#2 then s.framingError aborted
  else if frameCrcBits bits ≠ frameCrc (frameClassBits bits) (frameCardBits bits) (frameStatusBits bits) then
    s.crcError aborted
  else
    s.dispose (frameCardBits bits).toFin (frameClassOf (frameClassBits bits)) (statusesOf (frameStatusBits bits))

/-- What has been taken of a frame after its start bit (R52, R55, R56): at a sync bit that differs the frame is discarded, after its
49th bit it is judged, and in both cases the idle count then starts from 0 (R53); until then the frame is in reception. -/
def State.hear (aborted : Bool) (taken : List Bool) (s : State) : State :=
  if !syncHolds taken then (s.setFramer (.gap 0)).framingError aborted
  else if taken.length < Config.frameLength then s.setFramer (.receiving aborted taken)
  else (s.setFramer (.gap 0)).judge aborted (frameWord (taken.take Config.frameLength))

/-! ### Sending -/

/-- The class of a frame started now (R78). -/
def State.startClass (s : State) : FrameClass := if s.view.draining then .withdraw else s.sender.highest

/-- The transmit limit permits a start now (R77). -/
def State.startPermitted (s : State) : Bool :=
  permitsStart s.start.settings.txLimit (10 * s.start.settings.txWindow) s.clock.now s.sender.history

/-- The start of a frame (R78): class and status are fixed, the flags cleared, the start recorded. -/
def State.startFrame (s : State) : State :=
  (s.setFramer (.sending s.startClass s.ownStatuses 0)).withSender
    { s.sender.clearFlags with
      history := recordStart s.start.settings.txLimit s.clock.now s.sender.history }

/-- A start that is offered is taken: OPEN in SERVE, with a frame waiting, permitted (R58). -/
def State.mayStart (s : State) : Bool := s.bus.ctl == .open && s.isServe && s.sender.waiting && s.startPermitted

/-- The class of a frame handed back to the sending side (R80). -/
def State.handBack (cls : FrameClass) (s : State) : State := s.raiseDue (handedBack s.view.draining cls)

/-- Arbitration lost (R59): the counter rises, the class is handed back, and the chip goes on as a receiver with the bits `taken`, the one
that differs the last of them. -/
def State.loseArbitration (cls : FrameClass) (taken : List Bool) (s : State) : State :=
  (s.withBus { s.bus with framer := .receiving false taken, arbLost := satInc s.bus.arbLost }).handBack cls

/-- The entry to MUTED (R62). -/
def State.enterMuted (s : State) : State :=
  (s.withBus { s.bus with ctl := .muted (s.clock.now + Config.muteTime), abortRun := 0 }).append .muted

/-- What an abort counts and hands on (R60, R62, R80): the counter and the abort run rise, the class is handed back, and at the 16th
consecutive abort the controller is muted. -/
def State.countAbort (cls : FrameClass) (s : State) : State :=
  let t := (s.withBus { s.bus with aborts := satInc s.bus.aborts, abortRun := s.bus.abortRun + 1 }).handBack cls
  if Config.abortLimit ≤ t.bus.abortRun then t.enterMuted else t

/-- An abort (R60, R62): the chip goes on taking the frame, with the bits `taken`, the one that differs the last of them; a difference in
the sync field is a sync mismatch too, and one at the last bit ends the frame. -/
def State.abortFrame (cls : FrameClass) (taken : List Bool) (s : State) : State := (s.countAbort cls).hear true taken

/-- The beacon interval in force, in µs (R70). -/
def State.beaconInterval (s : State) : Nat := ms s.start.settings.beaconInterval

/-- A frame of this chip is completed (R61, R81). -/
def State.completeFrame (cls : FrameClass) (s : State) : State :=
  (s.withBus { s.bus with
    framer := .gap 0
    framesSent := satInc s.bus.framesSent
    abortRun := 0 }).withSender
    { s.sender with
      beaconTimer := some (s.clock.now + s.beaconInterval)
      rejoin := if cls = .withdraw then s.sender.rejoin else false }

/-- Bit `n` after the start bit lies in the arbitration field, class and card id (R59). -/
def inArbitration (n : Nat) : Bool := decide (8 ≤ n ∧ n < 14)

/-- One bit read back where `sent` bits after the start bit have been: it agrees, and the frame goes on or is completed, or it differs, and
arbitration is lost or the frame aborted (R54, R59 to R61). -/
def State.readBack (cls : FrameClass) (status : Statuses) (sent : Nat) (b : Bool) (s : State) : State :=
  let own := lineBits cls s.start.cardId status
  match own[sent]? with
  | none => s
  | some x =>
    if b = x then
      (if sent + 1 < Config.frameLength then s.setFramer (.sending cls status (sent + 1)) else s.completeFrame cls)
    else if inArbitration sent && x then s.loseArbitration cls (own.take sent ++ [b])
    else s.abortFrame cls (own.take sent ++ [b])

/-! ### The line -/

/-- A dominant level outside a frame with this idle count (R53, R58): below 10 it restarts the count; at 10 or more it is another chip's
start bit, which a controller that may start joins and any other takes as a receiver. -/
def State.startEdge (idle : Nat) (s : State) : State :=
  if idle < Config.startGap then s.setFramer (.gap 0)
  else if s.mayStart then s.startFrame
  else s.setFramer (.receiving false [])

/-- One bit time of the line (R53 to R61): outside a frame it counts as idle or is a start edge, in a frame it is taken or read back. -/
def State.takeBit (s : State) (b : Bool) : State :=
  match s.bus.framer with
  | .off => s
  | .gap idle => if b then s.setFramer (.gap (idle + 1)) else s.startEdge idle
  | .receiving aborted taken => s.hear aborted (taken ++ [b])
  | .sending cls status sent => s.readBack cls status sent b

/-- Bit times of the line one after another; what follows the end of a frame is taken outside a frame. -/
def State.takeBits (bits : List Bool) (s : State) : State := bits.foldl State.takeBit s

/-- FRAME_RECEIVED (R53 to R61, R66): outside a frame a start edge after `gap` more recessive bit times, and then `bits`; inside one, its
next bits (log 12). -/
def execFrameReceived (gap : Nat) (bits : List Bool) (s : State) : Host.Outcome State Fault Refusal :=
  .next <|
    if s.bus.ctl.receives then
      match s.bus.framer with
      | .gap idle => (s.startEdge (idle + gap)).takeBits bits
      | .receiving _ _ => s.takeBits bits
      | .sending _ _ _ => s.takeBits bits
      | .off => s
    else s

/-- FRAME_START (R53, R58, R77, R78): a start of its own at 11, or one that joins another chip's edge; where no frame starts, the chip
takes the line as a receiver. The start at 11 is made by this row alone, not by the bits of FRAME_RECEIVED (log 12). -/
def execFrameStart (gap : Nat) (edge : Bool) (s : State) : Host.Outcome State Fault Refusal :=
  .next <|
    if s.bus.ctl.receives then
      match s.bus.framer with
      | .gap idle =>
        if edge then s.startEdge (idle + gap)
        else if s.mayStart && decide (Config.idleGap ≤ idle + gap) then s.startFrame
        else s.setFramer (.gap (idle + gap))
      | .off => s
      | .sending _ _ _ => s
      | .receiving _ _ => s
    else s

/-- The first bit, from `sent` on, at which `own` differing is lost arbitration: a 1 in the arbitration field (R59). -/
def lossPlace (own : List Bool) (sent : Nat) : Option Nat :=
  (List.range own.length).find? fun n => decide (sent ≤ n) && inArbitration n && own.getD n false

/-- The first bit, from `sent` on, at which differing is an abort: any but a 1 in the arbitration field (R59, R60). -/
def abortPlace (own : List Bool) (sent : Nat) : Option Nat :=
  (List.range own.length).find? fun n => decide (sent ≤ n) && !(inArbitration n && own.getD n false)

/-- ARBITRATION_LOST (R59): the read-back agrees up to the first bit, from where it stands on, at which arbitration can be lost, and
differs there (log 12); with no 1 left in the arbitration field none can be lost (log 3). -/
def execArbitrationLost (s : State) : Host.Outcome State Fault Refusal :=
  .next <|
    match s.bus.framer with
    | .sending cls status sent =>
      let own := lineBits cls s.start.cardId status
      match lossPlace own sent with
      | some n => s.loseArbitration cls (own.take n ++ [false])
      | none => s
    | .off => s
    | .gap _ => s
    | .receiving _ _ => s

/-- ABORT (R60, R62, R80): with no bit after the start bit read back, the start bit itself differs; else the read-back agrees up to the
first bit, from where it stands on, at which a difference is an abort, and differs there (log 12). -/
def execAbort (s : State) : Host.Outcome State Fault Refusal :=
  .next <|
    match s.bus.framer with
    | .sending cls status sent =>
      let own := lineBits cls s.start.cardId status
      if sent = 0 then s.abortFrame cls []
      else
        match abortPlace own sent with
        | some n => s.abortFrame cls (own.take n ++ [!own.getD n false])
        | none => s
    | .off => s
    | .gap _ => s
    | .receiving _ _ => s

/-- FRAME_COMPLETE (R61, R81): the rest of the frame is read back as sent. -/
def execFrameComplete (s : State) : Host.Outcome State Fault Refusal :=
  .next <|
    match s.bus.framer with
    | .sending cls _ _ => s.completeFrame cls
    | .off => s
    | .gap _ => s
    | .receiving _ _ => s

/-! ### Timers -/

/-- MUTE_TIMER_EXPIRY (R63). -/
def execMuteTimerExpiry (s : State) : Host.Outcome State Fault Refusal :=
  .next <|
    match s.bus.ctl with
    | .muted out =>
      let t := s.advanceTo out
      (t.withBus { t.bus with ctl := .open }).raiseDue .beacon
    | .stopped => s
    | .open => s
    | .fault => s
    | .clashed => s

/-- BEACON_TIMER_EXPIRY (R73): beacon-due is raised and the timer restarts itself. -/
def execBeaconTimerExpiry (s : State) : Host.Outcome State Fault Refusal :=
  .next <|
    match s.sender.beaconTimer with
    | some out =>
      let t := (s.advanceTo out).raiseDue .beacon
      t.withSender { t.sender with beaconTimer := some (t.clock.now + t.beaconInterval) }
    | none => s

/-! ### FAULT -/

/-- A frame in reception is discarded at the entry to FAULT, and counted unless this chip aborted in it (R64): one that earlier
rows have begun, or, with `receiving`, one of another chip that no row has shown yet. -/
def State.discardReception (receiving : Bool) (s : State) : State :=
  match s.bus.framer with
  | .receiving aborted _ => s.framingError aborted
  | .gap _ => if receiving then s.framingError false else s
  | .sending _ _ _ => s
  | .off => s

/-- The entry to FAULT (R64). -/
def State.enterFault (receiving : Bool) (s : State) : State :=
  let t := s.discardReception receiving
  ((t.withBus { t.bus with ctl := .fault, framer := .off, abortRun := 0 }).append .busFault).isolationStart

/-- STUCK_LINE (R64): only for a stretch of more than 64 bit times, in a state that watches the line (R52); no frame of this chip
can be in flight then (log 3). -/
def execStuckLine (stretch : Nat) (receiving : Bool) (s : State) : Host.Outcome State Fault Refusal :=
  .next <|
    if s.bus.ctl.receives && decide (Config.stuckLimit < stretch) && !s.drivesLine then s.enterFault receiving else s

/-- FAULT_RECOVERY (R65): a count below 11 leaves the controller in FAULT. -/
def execFaultRecovery (recessive : Nat) (s : State) : Host.Outcome State Fault Refusal :=
  .next <|
    match s.bus.ctl with
    | .fault =>
      if recessive < Config.idleGap then s
      else
        let ctl := if s.bus.clashMark then BusState.clashed else BusState.open
        ((((s.withBus { s.bus with ctl := ctl, framer := .gap Config.idleGap }).append .busClear).isolationEnd).raiseDue
          .beacon)
    | .stopped => s
    | .open => s
    | .muted _ => s
    | .clashed => s

end Sys2Proof.Machine
end

