-- ==== Sys2Proof/Machine/Repair.lean ====
section
/-! DEFINITION. The commands of the Repair Engine (spec/07_the_repair_engine.md). -/

namespace Sys2Proof.Machine

/-- An entry the arbiter may take (R112). -/
inductive Taken where
  | urgent (w : WorkEntry)
  | sweep (e : SweepEntry)
  | build (g : GroupNo)
  | calm (w : WorkEntry)
  deriving DecidableEq, Repr

/-- The first entry in the arbiter's order; in LISTEN only BUILD entries may be taken, in LOADING none (R112). -/
def State.arbiterChoice (s : State) : Option Taken :=
  match s.start.phase with
  | .loading _ => none
  | .listen _ => s.engine.build.head?.map Taken.build
  | .serve =>
    ((s.engine.urgent.head?.map Taken.urgent).or (s.engine.sweep.map Taken.sweep)).or
      ((s.engine.build.head?.map Taken.build).or (s.engine.calm.head?.map Taken.calm))

/-- A walk before its first group; `walkOn` gives it its first. -/
def noWalk : Walk := ⟨none, 0, []⟩

/-- A BUILD job begins: the pending record leaves the pool with its entry, and the view is read (R119). -/
def State.beginBuild (g : GroupNo) (s : State) : State :=
  match s.store.pendingFor g with
  | none => s
  | some kind =>
    let snapshot := match kind with
      | .record r => s.snapshotOf r
      | .release => []
    (s.withStore { s.store with pool := s.store.pool.filter fun x => x.group != g }).withEngine
      { s.engine with
        build := s.engine.build.filter fun h => h != g
        job := some (.build g kind snapshot) }

/-- The job of a taken entry begins (R113). -/
def State.begin (t : Taken) (s : State) : State :=
  match t with
  | .urgent w =>
    (s.withEngine { s.engine with urgent := s.engine.urgent.tail }).walkOn (.urgent w.uplink noWalk) w.position
  | .sweep e => (s.withEngine { s.engine with sweep := none }).walkOn (.sweep noWalk) e.position
  | .build g => s.beginBuild g
  | .calm w =>
    (s.withEngine { s.engine with calm := s.engine.calm.tail }).walkOn (.calm w.uplink noWalk) w.position

/-- ARBITER_TAKE (R112, R113): with the engine IDLE and an entry that may be taken. -/
def execArbiterTake (s : State) : Host.Outcome State Fault Refusal :=
  .next <|
    match s.engine.job with
    | some _ => s
    | none =>
      match s.arbiterChoice with
      | some t => s.begin t
      | none => s

/-- The snapshot the reconcile of a walk's group uses (R93, R115; log 10). -/
def State.snapshotAt (time : SnapshotTime) (w : Walk) (s : State) : List Uplink :=
  match time with
  | .early => w.snapshot
  | .late => s.snapshotFor w.group

/-- RECONCILE (R115, R116): the walk's group is replaced in one step, and the walk is at its group boundary. -/
def execReconcile (time : SnapshotTime) (s : State) : Host.Outcome State Fault Refusal :=
  .next <|
    match s.engine.job with
    | none => s
    | some job =>
      match job.walk? with
      | none => s
      | some w => (s.reconcileGroup w.group (s.snapshotAt time w)).boundary job w.group

/-- INSTALLATION (R102, R103, R119): the BUILD job's record or release is installed and the job completes. -/
def execInstallation (s : State) : Host.Outcome State Fault Refusal :=
  .next <|
    match s.engine.job with
    | some (.build g (.record r) snapshot) => (s.installGroup g r snapshot).completeJob
    | some (.build g .release _) => (s.releaseGroup g).completeJob
    | some (.urgent _ _) => s
    | some (.calm _ _) => s
    | some (.sweep _) => s
    | none => s

/-- The EPISODE_END record of an episode that closes now (R124). -/
def Episode.endRecord (now : Nat) (e : Episode) : JournalBody :=
  .episodeEnd (min e.groups.length Config.countMax) (min e.slotsMoved Config.countMax)
    (min e.viewChanges Config.countMax) (min ((now - e.openedAt) / 10) Config.countMax)

/-- The close of an episode: EPISODE_END is appended, the open flag cleared, and the Journal commits what it held back (R124,
R161). -/
def State.closeEpisode (e : Episode) (s : State) : State :=
  let t := s.append (e.endRecord s.clock.now)
  (t.withEngine { t.engine with episode := none }).withJournal { t.journal with episodeOpen := false }.commitAll

/-- SETTLE_DEADLINE (R124). -/
def execSettleDeadline (s : State) : Host.Outcome State Fault Refusal :=
  .next <|
    match s.engine.episode with
    | none => s
    | some e =>
      match e.settle with
      | none => s
      | some deadline => if s.engine.atRest then (s.advanceTo deadline).closeEpisode e else s

end Sys2Proof.Machine
end

