-- ==== Sys2Proof/Machine/TablePort.lean ====
section
/-! DEFINITION. The commands of the Table Port Controller and the layouts of their responses (spec/09_the_table_port.md,
spec/12_formats.md sections 12.4 and 12.6). -/

namespace Sys2Proof.Machine

/-! ### Status codes and the taking of a command -/

/-- The status codes (R143). -/
inductive StatusCode where
  | ok | notReady | notYet | noTier0 | dupUplink | badWeight | badMinLive | poolFull | unknownCommand
  deriving DecidableEq, Repr

/-- The status bytes (section 12.4). -/
def StatusCode.byte : StatusCode → Byte
  | .ok => 0x00#8 | .notReady => 0x01#8 | .notYet => 0x02#8 | .noTier0 => 0x10#8 | .dupUplink => 0x11#8
  | .badWeight => 0x12#8 | .badMinLive => 0x13#8 | .poolFull => 0x14#8 | .unknownCommand => 0x7F#8

/-- The command of the transaction is taken and answered: the status byte, then the data (R142, R143). -/
def State.respond (c : StatusCode) (data : List Byte) (s : State) : State :=
  s.withPort { s.port with transaction := .taken, response := c.byte :: data }

/-- The byte shifted out at place `i` after the arguments: the response, then the filler FF hex (R142, R179). What is shifted out while
chip select is ignored the manual does not say: a free value (log 16). -/
def State.portOut (s : State) (i : Nat) : Byte :=
  match s.port.transaction with
  | .released => 0xFF#8
  | .selected => 0xFF#8
  | .taken => s.port.response.getD i 0xFF#8
  | .ignored => Config.ignoredByte s.model.freeUse i

/-- A command comes in on the port (R142, R143), with chip select asserted before or with it. While a reset line is asserted nothing is
taken, and a chip select asserted then is ignored until it is released; a transaction carries one command; a command that the phase
refuses is answered NOT_READY. -/
def State.takeCommand (inPhase : Bool) (effect : State → State) (s : State) : State :=
  if s.pins.resetN || s.pins.warmN then s.withPort { s.port with transaction := .ignored }
  else
    match s.port.transaction with
    | .released => if inPhase then effect s else s.respond .notReady []
    | .selected => if inPhase then effect s else s.respond .notReady []
    | .taken => s
    | .ignored => s

/-! ### Code values (section 12.1) -/

def Mode.code : Mode → Byte
  | .unused => 0#8 | .tier0 => 1#8 | .tier0Short => 2#8 | .tier1 => 3#8 | .escape => 4#8 | .dark => 5#8

def ActiveTier.code : ActiveTier → Byte
  | .tier .t0 => 0#8 | .tier .t1 => 1#8 | .escape => 2#8 | .none => 3#8

def EntryState.code : EntryState → BitVec 2
  | .admitted => 0#2 | .settling _ => 1#2 | .dark _ => 2#2

def DarkReason.code : DarkReason → BitVec 4
  | .lost => 1#4 | .held => 2#4 | .unwatched => 3#4 | .absent => 4#4 | .withdrawn => 5#4 | .unheard => 6#4 | .isolated => 7#4

/-- The reason code of an entry state, 0 when it is not DARK. -/
def EntryState.reasonCode : EntryState → BitVec 4
  | .admitted => 0#4 | .settling _ => 0#4 | .dark r => r.code

/-- Word 0 of a VIEW_CHANGE detail, bits 15 to 6 in no field (R181). -/
def EntryDetail.word (spare : BitVec 10) : EntryDetail → BitVec 16
  | .admitted => spare ++ 0#4 ++ 0#2
  | .settling => spare ++ 0#4 ++ 1#2
  | .dark r => spare ++ r.code ++ 2#2

def Presence.code : Presence → BitVec 3
  | .self => 0#3 | .unheard => 1#3 | .present _ => 2#3 | .withdrawn _ => 3#3 | .absent => 4#3

def Phase.code : Phase → BitVec 2
  | .loading _ => 0#2 | .listen _ => 1#2 | .serve => 2#2

def BusState.code : BusState → BitVec 3
  | .stopped => 0#3 | .open => 1#3 | .muted _ => 2#3 | .fault => 3#3 | .clashed => 4#3

def Occupant.code : Occupant → Byte
  | .member i => BitVec.ofNat 8 i.val | .escape => 8#8 | .empty => 15#8

/-- A 16-bit value as two bytes, the high one first. -/
def bytesOf (w : BitVec 16) : List Byte := [w.extractLsb' 8 8, w.extractLsb' 0 8]

/-- A mark as one bit. -/
def bit (b : Bool) : BitVec 1 := BitVec.ofBool b

/-- The time left to a deadline in whole milliseconds rounded up (R152). -/
def msLeft (now deadline : Nat) : Nat := (deadline - now + 999) / 1000

/-! ### Free bytes (log 16) -/

/-- The n-th free byte of the response that is being made. -/
def State.free (s : State) (n : Nat) : Byte := Config.freeByte (s.model.freeUse + n)

/-- One bit of the n-th free byte, for a bit shown in no field of a layout. -/
def State.freeBit (s : State) (n : Nat) : BitVec 1 := (s.free n).extractLsb' 0 1

/-- `n` free bytes have been used. -/
def State.usedFree (n : Nat) (s : State) : State := s.withModel { s.model with freeUse := s.model.freeUse + n }

/-! ### STATUS -/

/-- The 6 bytes of STATUS (R154); bit 7 of the first is in no field and free. -/
def State.statusBytes (s : State) : List Byte :=
  [s.freeBit 0 ++ s.bus.ctl.code ++ bit s.view.draining ++ bit s.engine.job.isSome ++ s.start.phase.code,
    BitVec.ofNat 8 s.engine.worklistLength] ++ bytesOf s.engine.completed ++ bytesOf s.journal.lost

/-- STATUS (R154): taken in every phase. -/
def execStatus (s : State) : Host.Outcome State Fault Refusal :=
  .next (s.takeCommand true fun t => (t.respond .ok t.statusBytes).usedFree 1)

/-! ### The staging record -/

/-- The staging record replaced. -/
def State.setStaging (r : Record) (s : State) : State := s.withPort { s.port with staging := r }

/-- STAGE_CLEAR (R145). -/
def execStageClear (s : State) : Host.Outcome State Fault Refusal :=
  .next (s.takeCommand (!s.isLoading) fun t => (t.setStaging Record.cleared).respond .ok [])

/-- What STAGE_MEMBER puts in its place: nothing for a weight of 0 (R146). -/
def seatArg (b0 b1 : Byte) : Option Seat :=
  if weightArg b0 = 0 then none else some ⟨uplinkArg b1, tierArg b1, weightArg b0⟩

/-- STAGE_MEMBER (R146). -/
def execStageMember (b0 b1 : Byte) (s : State) : Host.Outcome State Fault Refusal :=
  .next (s.takeCommand (!s.isLoading) fun t =>
    (t.setStaging { t.port.staging with seats := setAt t.port.staging.seats (placeArg b0) (seatArg b0 b1) }).respond .ok [])

/-- STAGE_OPTIONS (R147). -/
def execStageOptions (b0 b1 : Byte) (s : State) : Host.Outcome State Fault Refusal :=
  .next (s.takeCommand (!s.isLoading) fun t =>
    (t.setStaging { t.port.staging with
      minLive := minLiveArg b0
      escape := escapeArg b1
      revertive := !b0.getLsbD 7 }).respond .ok [])

/-! ### COMMIT and RELEASE -/

/-- The filled places of tier 0. -/
def Record.tier0Count (r : Record) : Nat := r.members.countP fun m => m.2.tier == .t0

/-- The first check of R149 that a staging record fails, checks 1 to 4. -/
def Record.refusal (r : Record) : Option StatusCode :=
  if r.tier0Count = 0 then some .noTier0
  else if ¬ r.named.Nodup then some .dupUplink
  else if !(r.members.all fun m => decide (1 ≤ m.2.weight ∧ m.2.weight ≤ 16)) then some .badWeight
  else if r.minLive = 0 ∨ r.tier0Count < r.minLive then some .badMinLive
  else none

/-- The pool holds a record for the group, or has a free place: check 5 of R149. -/
def Store.hasPlace (st : Store) (g : GroupNo) : Bool :=
  st.pendingFlag g || decide (st.pool.length < Config.poolPlaces)

/-- A pending record enters the pool: in place of the one held for its group, whose BUILD entry keeps its place, or in a free
place with a BUILD entry at the tail (R110, R149). -/
def State.putPending (g : GroupNo) (k : PendingKind) (s : State) : State :=
  if s.store.pendingFlag g then
    s.withStore { s.store with pool := s.store.pool.map fun x => if x.group = g then ⟨g, k⟩ else x }
  else
    let t := s.entryMade
    (t.withStore { t.store with pool := t.store.pool ++ [⟨g, k⟩] }).withEngine
      { t.engine with build := t.engine.build ++ [g] }

/-- COMMIT (R149). -/
def execCommit (b0 b1 : Byte) (s : State) : Host.Outcome State Fault Refusal :=
  .next (s.takeCommand (!s.isLoading) fun t =>
    match t.port.staging.refusal with
    | some c => t.respond c []
    | none =>
      if t.store.hasPlace (groupArg b0 b1) then
        (t.putPending (groupArg b0 b1) (.record t.port.staging)).respond .ok []
      else t.respond .poolFull [])

/-- RELEASE (R150). -/
def execRelease (b0 b1 : Byte) (s : State) : Host.Outcome State Fault Refusal :=
  .next (s.takeCommand (!s.isLoading) fun t =>
    if t.store.hasPlace (groupArg b0 b1) then (t.putPending (groupArg b0 b1) .release).respond .ok []
    else t.respond .poolFull [])

/-! ### READ_GROUP and READ_SPREAD -/

/-- The slots that hold an occupant (R104). -/
def slotCount (sp : Spread) (o : Occupant) : Nat := sp.toList.count o

/-- The two bytes of a member place: the STAGE_MEMBER layout, weight 0 for an empty place, whose uplink and tier are free. -/
def placeBytes (free : Byte) (i : MemberIdx) : Option Seat → List Byte
  | some m => [BitVec.ofFin (w := 3) i ++ BitVec.ofNat 5 m.weight, bit (m.tier == .t1) ++ BitVec.ofFin (w := 7) m.uplink]
  | none => [BitVec.ofFin (w := 3) i ++ 0#5, free]

/-- The escape byte: present mark, then the uplink, free when there is no escape. -/
def escapeByte (free : Byte) : Option Uplink → Byte
  | some e => 1#1 ++ BitVec.ofFin (w := 7) e
  | none => 0#1 ++ free.extractLsb' 0 7

/-- The byte of the active set: bit i set for member index i. -/
def ActiveSet.byte : ActiveSet → Byte
  | .members l => l.foldl (fun b i => b ||| (1#8 <<< i.val)) 0#8
  | .escape => 0#8
  | .empty => 0#8

/-- The 30 bytes of READ_GROUP (R104, R151), bit 3 of byte 3 being in no field and free; for an UNUSED group bytes 2 to 29 are 0
apart from the pending flag. -/
def State.groupBytes (g : GroupNo) (s : State) : List Byte :=
  match s.store.find g with
  | none => [Mode.unused.code, ActiveTier.none.code, 0#8, 0#6 ++ bit (s.store.pendingFlag g) ++ 0#1] ++ List.replicate 26 0#8
  | some x =>
    [x.mode.code, x.tier.code, x.set.byte,
      BitVec.ofNat 4 x.record.minLive ++ s.freeBit 9 ++ bit (!x.record.revertive) ++ bit (s.store.pendingFlag g) ++
        bit (x.set == .escape),
      escapeByte (s.free 8) x.record.escape] ++
      ((List.finRange 8).flatMap fun i => placeBytes (s.free i.val) i x.record.seats[i]) ++
      ((List.finRange 8).map fun i => BitVec.ofNat 8 (slotCount x.spread (.member i))) ++
      [BitVec.ofNat 8 (slotCount x.spread .escape)]

/-- READ_GROUP (R151). -/
def execReadGroup (b0 b1 : Byte) (s : State) : Host.Outcome State Fault Refusal :=
  .next (s.takeCommand (!s.isLoading) fun t => (t.respond .ok (t.groupBytes (groupArg b0 b1))).usedFree 10)

/-- The 64 bytes of READ_SPREAD, slot 0 first (R104). -/
def State.spreadBytes (g : GroupNo) (s : State) : List Byte := (s.store.spreadFor g).toList.map Occupant.code

/-- READ_SPREAD (R151). -/
def execReadSpread (b0 b1 : Byte) (s : State) : Host.Outcome State Fault Refusal :=
  .next (s.takeCommand (!s.isLoading) fun t => t.respond .ok (t.spreadBytes (groupArg b0 b1)))

/-! ### READ_VIEW and READ_CARDS -/

/-- The standing of a presence deadline: absent 0, running 1, suspended 2. -/
def Presence.deadlineCode : Presence → BitVec 2
  | .present (.due _) => 1#2 | .withdrawn (.due _) => 1#2 | .present .suspended => 2#2 | .withdrawn .suspended => 2#2
  | .self => 0#2 | .unheard => 0#2 | .absent => 0#2

/-- The milliseconds left to a presence deadline, 0 unless it is running. -/
def Presence.deadlineLeft (now : Nat) : Presence → Byte
  | .present (.due t) => BitVec.ofNat 8 (msLeft now t) | .withdrawn (.due t) => BitVec.ofNat 8 (msLeft now t)
  | .present .suspended => 0#8 | .withdrawn .suspended => 0#8 | .self => 0#8 | .unheard => 0#8 | .absent => 0#8

/-- The last status of a card: for the own card the monitors' reported statuses (R152). -/
def State.lastStatus (c : CardId) (s : State) : Option Statuses :=
  if s.view.cards[c].presence = .self then some s.ownStatuses else s.view.cards[c].lastHeard

/-- The mark of a card: for the own card the draining flag (R152). -/
def State.cardMark (c : CardId) (s : State) : Bool :=
  if s.view.cards[c].presence = .self then s.view.draining else s.view.cards[c].recheck

/-- The three bytes of an entry; the time left is free when it is not SETTLING, and bit 6 of the first byte is in no field. -/
def Entry.bytes (now : Nat) (free0 free1 : Byte) (spare : BitVec 1) (e : Entry) : List Byte :=
  (bit e.firstMark ++ spare ++ e.state.reasonCode ++ e.state.code) ::
    match e.state with
    | .settling t => bytesOf (BitVec.ofNat 16 (msLeft now t))
    | .admitted => [free0, free1]
    | .dark _ => [free0, free1]

/-- The 28 bytes of READ_VIEW (R152); bit 7 of the first is in no field and free. -/
def State.viewBytes (c : CardId) (s : State) : List Byte :=
  [s.freeBit 16 ++ bit (s.lastStatus c).isSome ++ s.view.cards[c].presence.deadlineCode ++ bit (s.cardMark c) ++
      s.view.cards[c].presence.code,
    s.view.cards[c].presence.deadlineLeft s.clock.now] ++
    bytesOf (((s.lastStatus c).map statusWord).getD 0#16) ++
    (List.finRange 8).flatMap fun p =>
      s.view.entries[uplinkOf c p].bytes s.clock.now (s.free (2 * p.val)) (s.free (2 * p.val + 1)) (s.freeBit (17 + p.val))

/-- READ_VIEW (R152). -/
def execReadView (b0 : Byte) (s : State) : Host.Outcome State Fault Refusal :=
  .next (s.takeCommand (!s.isLoading) fun t => (t.respond .ok (t.viewBytes (cardArg b0))).usedFree 25)

/-- A presence code in half a byte. -/
def State.presenceNibble (s : State) (c : CardId) : BitVec 4 := 0#1 ++ s.view.cards[c].presence.code

/-- The 8 bytes of READ_CARDS: card 2k high and card 2k + 1 low in byte k. -/
def State.cardsBytes (s : State) : List Byte :=
  (List.finRange 8).map fun k =>
    s.presenceNibble ⟨2 * k.val, by omega⟩ ++ s.presenceNibble ⟨2 * k.val + 1, by omega⟩

/-- READ_CARDS (R152). -/
def execReadCards (s : State) : Host.Outcome State Fault Refusal :=
  .next (s.takeCommand (!s.isLoading) fun t => t.respond .ok t.cardsBytes)

/-! ### READ_JOURNAL (section 12.6) -/

def JournalBody.code : JournalBody → Byte
  | .viewChange _ _ => 1#8 | .cardSeen _ => 2#8 | .cardLost _ => 3#8 | .cardWithdrawn _ => 4#8 | .cardReturned _ => 5#8
  | .busFault => 6#8 | .busClear => 7#8 | .muted => 8#8 | .clash _ => 9#8 | .groupMode _ _ => 10#8
  | .episodeEnd _ _ _ _ => 11#8 | .configDefaulted _ => 12#8 | .configClamped _ => 13#8 | .pendingDiscarded _ => 14#8
  | .joined _ _ => 15#8

/-- Kind of subject in bits 15 to 14, number in bits 9 to 0, the four bits between in no field; 0 for a kind with no subject. -/
def JournalBody.subject (spare : BitVec 4) : JournalBody → BitVec 16
  | .viewChange u _ => 1#2 ++ spare ++ BitVec.ofNat 10 u.val
  | .cardSeen c => 2#2 ++ spare ++ BitVec.ofNat 10 c.val
  | .cardLost c => 2#2 ++ spare ++ BitVec.ofNat 10 c.val
  | .cardWithdrawn c => 2#2 ++ spare ++ BitVec.ofNat 10 c.val
  | .cardReturned c => 2#2 ++ spare ++ BitVec.ofNat 10 c.val
  | .clash c => 2#2 ++ spare ++ BitVec.ofNat 10 c.val
  | .groupMode g _ => 3#2 ++ spare ++ BitVec.ofNat 10 g.val
  | .busFault => 0#16 | .busClear => 0#16 | .muted => 0#16 | .episodeEnd _ _ _ _ => 0#16 | .configDefaulted _ => 0#16
  | .configClamped _ => 0#16 | .pendingDiscarded _ => 0#16 | .joined _ _ => 0#16

def LoadCause.code : LoadCause → BitVec 16
  | .noRom => 1#16 | .badMagic => 2#16 | .badCrc => 3#16

def StartKind.code : StartKind → BitVec 16
  | .cold => 0#16 | .warm => 1#16

/-- Word 0 of a CONFIG_CLAMPED detail: bit m set for mark m (R180, R181), the four bits above the marks in no field (log 15). -/
def marksWord (spare : BitVec 4) (m : Vector Bool 12) : BitVec 16 :=
  spare ++ (List.finRange 12).foldl (fun w i => if m[i] then w ||| (1#12 <<< i.val) else w) 0#12

/-- The four detail words (R181). -/
def JournalBody.words (spare : BitVec 10) : JournalBody → List (BitVec 16)
  | .viewChange _ d => [d.word spare, 0#16, 0#16, 0#16]
  | .groupMode _ m => [0#8 ++ m.code, 0#16, 0#16, 0#16]
  | .episodeEnd g sl v d => [BitVec.ofNat 16 g, BitVec.ofNat 16 sl, BitVec.ofNat 16 v, BitVec.ofNat 16 d]
  | .configDefaulted c => [c.code, 0#16, 0#16, 0#16]
  | .configClamped m => [marksWord (spare.extractLsb' 0 4) m, 0#16, 0#16, 0#16]
  | .pendingDiscarded n => [BitVec.ofNat 16 n, 0#16, 0#16, 0#16]
  | .joined k n => [k.code, BitVec.ofNat 16 n, 0#16, 0#16]
  | .cardSeen _ => [0#16, 0#16, 0#16, 0#16] | .cardLost _ => [0#16, 0#16, 0#16, 0#16]
  | .cardWithdrawn _ => [0#16, 0#16, 0#16, 0#16] | .cardReturned _ => [0#16, 0#16, 0#16, 0#16]
  | .busFault => [0#16, 0#16, 0#16, 0#16] | .busClear => [0#16, 0#16, 0#16, 0#16]
  | .muted => [0#16, 0#16, 0#16, 0#16] | .clash _ => [0#16, 0#16, 0#16, 0#16]

/-- The 16 bytes of a record (section 12.6), with three free bytes for the bits in no field. -/
def JournalRecord.bytes (f0 f1 f2 : Byte) (r : JournalRecord) : List Byte :=
  [r.body.code] ++ bytesOf (r.body.subject (f0.extractLsb' 0 4)) ++ [0#8] ++
    [r.timestamp.extractLsb' 24 8, r.timestamp.extractLsb' 16 8, r.timestamp.extractLsb' 8 8, r.timestamp.extractLsb' 0 8] ++
    (r.body.words (f1 ++ f2.extractLsb' 0 2)).flatMap bytesOf

/-- The bytes of a run of records, oldest first; each uses three free bytes, from the n-th on. -/
def State.recordBytes (s : State) : Nat → List JournalRecord → List Byte
  | _, [] => []
  | n, r :: rest => r.bytes (s.free n) (s.free (n + 1)) (s.free (n + 2)) ++ s.recordBytes (n + 3) rest

/-- The `n` oldest records leave the ring, and the read position moves past them (R164). -/
def Journal.deliver (n : Nat) (j : Journal) : Journal :=
  { j with committed := j.committed.drop n, readPos := j.readPos + Fin.ofNat 64 n }

/-- How many records READ_JOURNAL n delivers (R153, R164). -/
def State.deliverable (n : Byte) (s : State) : Nat := min n.toNat s.journal.committed.length

/-- READ_JOURNAL (R153, R164): the count, then the records, oldest first. -/
def execReadJournal (b0 : Byte) (s : State) : Host.Outcome State Fault Refusal :=
  .next (s.takeCommand (!s.isLoading) fun t =>
    let n := t.deliverable b0
    ((t.withJournal (t.journal.deliver n)).respond .ok
      (BitVec.ofNat 8 n :: t.recordBytes 0 (t.journal.committed.take n))).usedFree (3 * n))

/-! ### READ_COUNTERS -/

/-- The 25 counters in the order of R153. -/
def State.counters (s : State) : List Count16 :=
  ((List.finRange 8).map fun p => s.monitors[p].losses) ++ ((List.finRange 8).map fun p => s.monitors[p].glitches) ++
    [s.bus.framesSent, s.bus.arbLost, s.bus.aborts, s.bus.framesReceived, s.bus.framingErrors, s.bus.crcErrors,
      s.lookup.patched, s.lookup.discarded, s.lookup.noRoute]

/-- All 25 counters set to 0 (R153). -/
def State.clearCounters (s : State) : State :=
  ((s.withMonitors (Vector.ofFn fun p => { s.monitors[p] with losses := 0#16, glitches := 0#16 })).withBus
    { s.bus with
      framesSent := 0#16, arbLost := 0#16, aborts := 0#16, framesReceived := 0#16, framingErrors := 0#16
      crcErrors := 0#16 }).withLookup
    { s.lookup with patched := 0#16, discarded := 0#16, noRoute := 0#16 }

/-- READ_COUNTERS (R153). -/
def execReadCounters (s : State) : Host.Outcome State Fault Refusal :=
  .next (s.takeCommand (!s.isLoading) fun t => t.clearCounters.respond .ok (t.counters.flatMap bytesOf))

/-! ### DRAIN and UNDRAIN -/

/-- The draining flag replaced, and the own entries find their standing in ascending port order (R39, R40). -/
def State.setDraining (b : Bool) (s : State) : State :=
  (s.withView { s.view with draining := b }).refindAll (uplinksOf s.start.cardId)

/-- DRAIN (R155, R74): refused outside SERVE, and with NOT_YET while the rejoin mark is set. -/
def execDrain (s : State) : Host.Outcome State Fault Refusal :=
  .next (s.takeCommand s.isServe fun t =>
    if t.sender.rejoin then t.respond .notYet []
    else if t.view.draining then t.respond .ok []
    else ((t.setDraining true).raiseDue .withdraw).respond .ok [])

/-- What clearing the draining flag does on the sending side (R74). -/
def Sender.undrained (d : Sender) : Sender := { d with withdrawDue := false, beaconDue := true, rejoin := true }

/-- UNDRAIN (R156, R74). -/
def execUndrain (s : State) : Host.Outcome State Fault Refusal :=
  .next (s.takeCommand (!s.isLoading) fun t =>
    if t.view.draining then
      let u := t.setDraining false
      (u.withSender u.sender.undrained).respond .ok []
    else t.respond .ok [])

/-! ### WARM_RESET and unknown bytes -/

/-- WARM_RESET (R157): performed at the release of chip select. -/
def execWarmReset (s : State) : Host.Outcome State Fault Refusal :=
  .next (s.takeCommand (!s.isLoading) fun t =>
    (t.withPort { t.port with warmOrdered := true }).respond .ok [])

/-- UNKNOWN_COMMAND (R144): answered in every phase; a byte that names a command is none of this row's (log 3). -/
def execUnknownCommand (byte : Byte) (s : State) : Host.Outcome State Fault Refusal :=
  .next (if Config.commandBytes.contains byte then s else s.takeCommand true fun t => t.respond .unknownCommand [])

end Sys2Proof.Machine
end

