-- ==== Sys2Proof/Machine/Startup.lean ====
section
/-! DEFINITION. Power-up, the resets, the load of the configuration image and the entry to SERVE (spec/11_start_join_and_reset.md,
spec/12_formats.md section 12.5, and the reset rules of each chapter). -/

namespace Sys2Proof.Machine

/-! ### Resets -/

/-- The table port at a reset (R142, R145, R157): a transaction under way ends, its command taken or not, and its chip select is ignored
from then on; what it shifts out after that is a free value (State.portOut, log 16). -/
def TablePort.atReset (p : TablePort) : TablePort :=
  { staging := Record.cleared
    transaction := match p.transaction with
      | .released => .released
      | .selected => .ignored
      | .taken => .ignored
      | .ignored => .ignored
    warmOrdered := false
    response := [] }

/-- Every block at a cold reset (R16, R28, R47, R69, R71, R105, R126, R140, R145, R158, R166, R168). The card id keeps its value until the
straps are sampled, the model's choice (log 6). -/
def State.coldReset (s : State) : State :=
  { s with
    clock := { s.clock with timeBase := 0#32, nextTick := none }
    start := { s.start with phase := .loading .waiting, kind := .cold, settings := Settings.default }
    monitors := Vector.replicate 8 Monitor.cold
    view := View.reset
    bus := Bus.cold
    sender := Sender.reset
    store := Store.cold
    engine := Engine.cold
    lookup := { Lookup.cold with emitted := s.lookup.emitted }
    port := s.port.atReset
    journal := Journal.cold }

/-- A monitor at a warm reset: its state is abandoned; figure, flag and counters are kept (R17, R29). -/
def Monitor.warm (m : Monitor) : Monitor := { m with state := .dark }

/-- The controller at a warm reset: its counters are kept (R68, R69). -/
def Bus.warm (b : Bus) : Bus :=
  { b with ctl := .stopped, framer := .off, abortRun := 0, clashMark := false }

/-- The Lookup Unit at a warm reset: its counters are kept (R133, R140). -/
def Lookup.warm (l : Lookup) : Lookup :=
  { l with queue := [], dropUplinks := [], dropGroups := [], dropAll := false, lastKind := .dropGroup }

/-- The records a warm reset discards: those in the pool, and the one a BUILD job has taken (R125). -/
def State.lostToReset (s : State) : Nat :=
  s.store.pool.length +
    match s.engine.job with
    | some (.build _ _ _) => 1
    | some (.urgent _ _) => 0
    | some (.calm _ _) => 0
    | some (.sweep _) => 0
    | none => 0

/-- Every block at a warm reset (R17, R29, R47, R69, R71, R106, R125, R140, R145, R167, R168). The card id keeps its value until the straps
are sampled, the model's choice (log 6). -/
def State.warmReset (s : State) : State :=
  { s with
    clock := { s.clock with nextTick := none }
    start := { s.start with
      phase := .loading .waiting
      kind := if s.isLoading then s.start.kind else .warm
      settings := Settings.default }
    monitors := Vector.ofFn fun p => s.monitors[p].warm
    view := View.reset
    bus := s.bus.warm
    sender := Sender.reset
    store := { s.store with pool := [] }
    engine := { Engine.cold with
      completed := s.engine.completed
      discarded := s.engine.discarded + s.lostToReset }
    lookup := s.lookup.warm
    port := s.port.atReset
    journal := { s.journal with episodeOpen := false }.commitAll }

/-- With neither reset line asserted the straps are sampled and the read of the image begins (R168, R169). -/
def State.beginLoad (straps : CardId) (s : State) : State :=
  if s.pins.resetN || s.pins.warmN then s
  else
    s.withStart { s.start with
      cardId := straps
      phase := .loading (.reading (s.clock.now + Config.loadLimit)) }

/-- POWER_UP (R168): a cold reset; the load begins if no reset line is asserted. -/
def execPowerUp (straps : CardId) (s : State) : Host.Outcome State Fault Refusal :=
  .next (s.coldReset.beginLoad straps)

/-- RESET_N_ASSERTED (R168). -/
def execResetNAsserted (s : State) : Host.Outcome State Fault Refusal :=
  .next (if s.pins.resetN then s else (s.withPins { s.pins with resetN := true }).coldReset)

/-- RESET_N_RELEASED (R168, R169). -/
def execResetNReleased (straps : CardId) (s : State) : Host.Outcome State Fault Refusal :=
  .next (if s.pins.resetN then (s.withPins { s.pins with resetN := false }).beginLoad straps else s)

/-- WARM_N_ASSERTED (R168): no effect while RESET_N is asserted. -/
def execWarmNAsserted (s : State) : Host.Outcome State Fault Refusal :=
  .next
    (if s.pins.warmN then s
    else
      let t := s.withPins { s.pins with warmN := true }
      if s.pins.resetN then t else t.warmReset)

/-- WARM_N_RELEASED (R168, R169): no effect while RESET_N is asserted. -/
def execWarmNReleased (straps : CardId) (s : State) : Host.Outcome State Fault Refusal :=
  .next (if s.pins.warmN then (s.withPins { s.pins with warmN := false }).beginLoad straps else s)

/-- Chip select is released: the next transaction may begin, and what was not shifted out is lost (R142). -/
def State.releasePort (s : State) : State :=
  s.withPort { s.port with transaction := .released, warmOrdered := false, response := [] }

/-- Chip select is asserted, with no command taken yet: ignored until its release while a reset line is asserted (R142). -/
def State.selectPort (s : State) : State :=
  s.withPort { s.port with transaction := if s.pins.resetN || s.pins.warmN then .ignored else .selected }

/-- CHIP_SELECT_RELEASE (R142, R157): performs the warm reset that WARM_RESET ordered, as an assertion and release of WARM_N; then chip
select may be asserted again. -/
def execChipSelectRelease (release : Deselect) (s : State) : Host.Outcome State Fault Refusal :=
  .next <|
    let t := if s.port.warmOrdered then s.releasePort.warmReset.beginLoad release.straps else s.releasePort
    if release.again then t.selectPort else t

/-! ### The configuration image (section 12.5) -/

/-- A value brought within a range. -/
def clamp (lo hi x : Nat) : Nat := max lo (min hi x)

/-- A value taken to the next lower step, never below the lower bound. -/
def stepDown (step lo x : Nat) : Nat := max lo (x - x % step)

/-- The bit rate of a code. -/
def bitRateOf (c : BitVec 2) : BitRate :=
  if c = 0#2 then .m1 else if c = 1#2 then .m2 else if c = 2#2 then .m4 else .m8

/-- The items of an image as stored. -/
def storedSettings (bytes : List Byte) : Settings where
  bitRate := bitRateOf ((bytes.getD 2 0#8).extractLsb' 0 2)
  watch := bytes.getD 3 0#8
  lossDebounce := (bytes.getD 4 0#8).toNat
  returnDebounce := (bytes.getD 5 0#8).toNat
  charge := (twoBytes bytes 6).toNat
  suppress := (twoBytes bytes 8).toNat
  reuse := (twoBytes bytes 10).toNat
  decayRate := (twoBytes bytes 12).toNat
  decayTick := (twoBytes bytes 14).toNat
  admissionDelay := (twoBytes bytes 16).toNat
  beaconInterval := (bytes.getD 18 0#8).toNat
  presenceWindow := (bytes.getD 19 0#8).toNat
  txLimit := (bytes.getD 20 0#8).toNat
  txWindow := (twoBytes bytes 21).toNat
  policy := if (bytes.getD 23 0#8).getLsbD 0 then .localOnly else .hold
  settleTime := (bytes.getD 24 0#8).toNat

/-- Step 1 of R170: each item within its range, and on its step. -/
def Settings.ranged (c : Settings) : Settings :=
  { c with
    lossDebounce := clamp 1 64 c.lossDebounce
    returnDebounce := clamp 1 64 c.returnDebounce
    charge := clamp 0 2047 c.charge
    suppress := clamp 1 8191 c.suppress
    decayRate := clamp 1 512 c.decayRate
    decayTick := stepDown 10 10 (clamp 10 2550 c.decayTick)
    beaconInterval := clamp 1 64 c.beaconInterval
    presenceWindow := clamp 2 255 c.presenceWindow
    txLimit := clamp 2 16 c.txLimit
    txWindow := stepDown 10 10 (clamp 10 1000 c.txWindow)
    settleTime := clamp 1 255 c.settleTime }

/-- Steps 2 and 3 of R170: the reuse threshold below S, the presence window at least two beacon intervals. -/
def Settings.related (c : Settings) : Settings :=
  let reuse := clamp 0 8190 c.reuse
  { c with
    reuse := if reuse < c.suppress then reuse else c.suppress - 1
    presenceWindow := max c.presenceWindow (2 * c.beaconInterval) }

/-- The settings in force from a used image (R170). -/
def Settings.adjusted (c : Settings) : Settings := c.ranged.related

/-- The marks of the items that were adjusted, numbered as R180 numbers them. -/
def Settings.marks (c d : Settings) : Vector Bool 12 :=
  #v[c.lossDebounce != d.lossDebounce, c.returnDebounce != d.returnDebounce, c.charge != d.charge, c.suppress != d.suppress,
    c.reuse != d.reuse, c.decayRate != d.decayRate, c.decayTick != d.decayTick, c.beaconInterval != d.beaconInterval,
    c.presenceWindow != d.presenceWindow, c.txLimit != d.txLimit, c.txWindow != d.txWindow, c.settleTime != d.settleTime]

/-- What the loader makes of a read: the settings in force and the configuration record it notes (R169, R170, R180). -/
def judgeRead : RomRead → Settings × Option JournalBody
  | .noAck => (Settings.default, some (.configDefaulted .noRom))
  | .image bytes =>
    if bytes.length ≠ Config.imageBytes then (Settings.default, some (.configDefaulted .noRom))
    else if twoBytes bytes 0 ≠ Config.magic then (Settings.default, some (.configDefaulted .badMagic))
    else if crcOf (byteBits (bytes.take 25)) ≠ twoBytes bytes 25 then (Settings.default, some (.configDefaulted .badCrc))
    else
      let stored := storedSettings bytes
      (stored.adjusted, if stored.adjusted = stored then none else some (.configClamped (stored.marks stored.adjusted)))

/-- LOAD_TIMEOUT (R169): the read is not complete within 50 ms of the release of the reset. -/
def execLoadTimeout (s : State) : Host.Outcome State Fault Refusal :=
  .next <|
    match s.start.phase with
    | .loading (.reading limit) =>
      let t := s.advanceTo limit
      t.withStart { t.start with phase := .loading .timedOut }
    | .loading .waiting => s
    | .loading .timedOut => s
    | .listen _ => s
    | .serve => s

/-! ### The end of loading (R171) -/

/-- A monitor takes up its port (R15). -/
def Monitor.takeUp (watched light : Bool) (returnOut : Nat) (m : Monitor) : Monitor :=
  { m with state := if watched then (if light then .returning returnOut else .dark) else .off }

/-- The monitors take up their light lines under the new watch mask (R15). -/
def State.takeUpMonitors (s : State) : State :=
  s.withMonitors (Vector.ofFn fun p =>
    s.monitors[p].takeUp (s.start.settings.watch.getLsbD p.val) s.pins.light[p]
      (s.clock.now + ms s.start.settings.returnDebounce))

/-- The DARK reason of a starting status (R47). -/
def PortStatus.reason : PortStatus → DarkReason
  | .up => .lost
  | .lost => .lost
  | .held => .held
  | .unwatched => .unwatched

/-- The strapped card becomes SELF and its entries take the monitors' starting statuses, which hand on nothing (R47). -/
def State.takeUpView (s : State) : State :=
  s.withView { s.view with
    cards := setAt s.view.cards s.start.cardId { s.view.cards[s.start.cardId] with presence := .self }
    entries := Vector.ofFn fun u =>
      if cardOf u = s.start.cardId then { s.view.entries[u] with state := .dark (s.reported (portOf u)).reason }
      else s.view.entries[u] }

/-- After a warm start PENDING_DISCARDED is appended (R125). -/
def State.reportDiscarded (s : State) : State :=
  let t := match s.start.kind with
    | .warm => s.append (.pendingDiscarded s.engine.discarded)
    | .cold => s
  t.withEngine { t.engine with discarded := 0 }

/-- The end of loading with these settings and this configuration record (R171, R172). -/
def State.finishLoading (settings : Settings) (noted : Option JournalBody) (s : State) : State :=
  let t := match noted with
    | some b => s.append b
    | none => s
  let u := (t.withStart { t.start with
    settings := settings
    phase := .listen (t.clock.now + ms settings.presenceWindow) }).withClock
    { t.clock with nextTick := some (t.clock.now + ms settings.decayTick) }
  let v := u.takeUpMonitors.takeUpView
  (v.withBus { v.bus with ctl := .open, framer := .gap 0 }).reportDiscarded

/-- END_OF_LOADING (R169 to R172): a read that ends after the limit is a ROM that did not answer. -/
def execEndOfLoading (rom : RomRead) (s : State) : Host.Outcome State Fault Refusal :=
  .next <|
    match s.start.phase with
    | .loading (.reading limit) =>
      let j := judgeRead (if limit < s.clock.now then .noAck else rom)
      s.finishLoading j.1 j.2
    | .loading .timedOut =>
      let j := judgeRead .noAck
      s.finishLoading j.1 j.2
    | .loading .waiting => s
    | .listen _ => s
    | .serve => s

/-! ### The entry to SERVE (R173, R174) -/

/-- A SWEEP entry is placed on the worklist (R111). -/
def State.placeSweep (s : State) : State :=
  let t := s.entryMade
  t.withEngine { t.engine with sweep := some ⟨none⟩ }

/-- The cards other than the own that are PRESENT or WITHDRAWN (R174). -/
def State.othersHeard (s : State) : Nat :=
  (List.finRange 16).countP fun c => c != s.start.cardId &&
    match s.view.cards[c].presence with
    | .present _ => true
    | .withdrawn _ => true
    | .self => false
    | .unheard => false
    | .absent => false

/-- What each block does at the entry to SERVE but for the SWEEP and the JOINED record (R173). -/
def State.startServing (s : State) : State :=
  ((s.withStart { s.start with phase := .serve }).withLookup { s.lookup with dropAll := true }).withSender
    { (s.sender.raise .beacon) with beaconTimer := some (s.clock.now + ms s.start.settings.beaconInterval) }

/-- The entry to SERVE (R173, R174); after a warm start the SWEEP and JOINED come in either order (log 8). -/
def State.enterServe (s : State) : State :=
  let t := s.startServing
  let joined := JournalBody.joined t.start.kind t.othersHeard
  match t.start.kind with
  | .cold => t.append joined
  | .warm => if t.nextOrder then t.orderMade.placeSweep.append joined else (t.orderMade.append joined).placeSweep

/-- LISTEN_DEADLINE (R172, R173). -/
def execListenDeadline (s : State) : Host.Outcome State Fault Refusal :=
  .next <|
    match s.start.phase with
    | .listen deadline => (s.advanceTo deadline).enterServe
    | .loading _ => s
    | .serve => s

end Sys2Proof.Machine
end

