-- ==== Sys2Proof/Machine/Dispatch.lean ====
section
/-! DEFINITION. One arm for each row of spec/opcode_table.json. -/

namespace Sys2Proof.Machine

/-- The effect of a command on everything but the queue. -/
def exec (i : Instr) (s : State) : Host.Outcome State Fault Refusal :=
  match i with
  | .lightFall p => Sys2Proof.Machine.execLightFall p s
  | .lightRise p => Sys2Proof.Machine.execLightRise p s
  | .lossTimerExpiry p => Sys2Proof.Machine.execLossTimerExpiry p s
  | .returnTimerExpiry p => Sys2Proof.Machine.execReturnTimerExpiry p s
  | .decayTick => Sys2Proof.Machine.execDecayTick s
  | .admissionDeadline u => Sys2Proof.Machine.execAdmissionDeadline u s
  | .presenceDeadline c => Sys2Proof.Machine.execPresenceDeadline c s
  | .frameReceived gap bits => Sys2Proof.Machine.execFrameReceived gap bits s
  | .frameStart gap edge => Sys2Proof.Machine.execFrameStart gap edge s
  | .arbitrationLost => Sys2Proof.Machine.execArbitrationLost s
  | .abort => Sys2Proof.Machine.execAbort s
  | .frameComplete => Sys2Proof.Machine.execFrameComplete s
  | .muteTimerExpiry => Sys2Proof.Machine.execMuteTimerExpiry s
  | .beaconTimerExpiry => Sys2Proof.Machine.execBeaconTimerExpiry s
  | .stuckLine stretch receiving => Sys2Proof.Machine.execStuckLine stretch receiving s
  | .faultRecovery recessive => Sys2Proof.Machine.execFaultRecovery recessive s
  | .arbiterTake => Sys2Proof.Machine.execArbiterTake s
  | .reconcile snapshot => Sys2Proof.Machine.execReconcile snapshot s
  | .installation => Sys2Proof.Machine.execInstallation s
  | .settleDeadline => Sys2Proof.Machine.execSettleDeadline s
  | .lookupRequest word => Sys2Proof.Machine.execLookupRequest word s
  | .answer => Sys2Proof.Machine.execAnswer s
  | .dropUplink => Sys2Proof.Machine.execDropUplink s
  | .dropGroup => Sys2Proof.Machine.execDropGroup s
  | .dropAll => Sys2Proof.Machine.execDropAll s
  | .status => Sys2Proof.Machine.execStatus s
  | .stageClear => Sys2Proof.Machine.execStageClear s
  | .stageMember b0 b1 => Sys2Proof.Machine.execStageMember b0 b1 s
  | .stageOptions b0 b1 => Sys2Proof.Machine.execStageOptions b0 b1 s
  | .commit b0 b1 => Sys2Proof.Machine.execCommit b0 b1 s
  | .release b0 b1 => Sys2Proof.Machine.execRelease b0 b1 s
  | .readGroup b0 b1 => Sys2Proof.Machine.execReadGroup b0 b1 s
  | .readSpread b0 b1 => Sys2Proof.Machine.execReadSpread b0 b1 s
  | .readView b0 => Sys2Proof.Machine.execReadView b0 s
  | .readCards => Sys2Proof.Machine.execReadCards s
  | .readJournal b0 => Sys2Proof.Machine.execReadJournal b0 s
  | .readCounters => Sys2Proof.Machine.execReadCounters s
  | .drain => Sys2Proof.Machine.execDrain s
  | .undrain => Sys2Proof.Machine.execUndrain s
  | .warmReset => Sys2Proof.Machine.execWarmReset s
  | .unknownCommand byte => Sys2Proof.Machine.execUnknownCommand byte s
  | .chipSelectRelease release => Sys2Proof.Machine.execChipSelectRelease release s
  | .powerUp straps => Sys2Proof.Machine.execPowerUp straps s
  | .resetNAsserted => Sys2Proof.Machine.execResetNAsserted s
  | .resetNReleased straps => Sys2Proof.Machine.execResetNReleased straps s
  | .warmNAsserted => Sys2Proof.Machine.execWarmNAsserted s
  | .warmNReleased straps => Sys2Proof.Machine.execWarmNReleased straps s
  | .loadTimeout => Sys2Proof.Machine.execLoadTimeout s
  | .endOfLoading rom => Sys2Proof.Machine.execEndOfLoading rom s
  | .listenDeadline => Sys2Proof.Machine.execListenDeadline s

end Sys2Proof.Machine
end

