-- ==== Sys2Proof/Safety.lean ====
section
/-! DEFINITION. What holds in every state the part can be in: the laws the manual states of the view, the bus, the groups, the
worklist, the episode, the lookup port, the journal and the settings, each as a property of one state; what stays as it was
where a statement says that a command changes nothing else; and what an event of the view hands on, of two states. -/

namespace Sys2Proof.Machine

/-! ### Resets -/

/-- While either reset line is asserted the load has not begun (R168). -/
def State.ResetLaw (s : State) : Prop :=
  s.pins.resetN = true ∨ s.pins.warmN = true → s.start.phase = .loading .waiting

/-! ### Light Monitors and damping -/

/-- A monitor that is held out of service: HELD, or FADING with origin HELD. -/
def MonitorState.isHeld : MonitorState → Bool
  | .held => true
  | .fading .held _ => true
  | .fading .up _ => false
  | .off => false
  | .up => false
  | .dark => false
  | .returning _ => false

/-- The penalty figure is at most 8191 (R19, R27), and a port is never held with its suppressed flag clear (R12). -/
structure Monitor.Law (m : Monitor) : Prop where
  figure : m.penalty ≤ Config.penaltyMax
  held : m.state.isHeld = true → m.suppressed = true

/-- Every port keeps the damping law. -/
def State.DampingLaw (s : State) : Prop := ∀ p : Port, s.monitors[p].Law

/-! ### Uplink View -/

/-- An entry agrees with a standing: DARK with that reason, or not DARK when in service (R31, R32). -/
def EntryState.agrees : EntryState → Standing → Prop
  | .dark r, st => st = .dark r
  | .admitted, st => st = .inService
  | .settling _, st => st = .inService

/-- The state LOADING asks of the view and of the Notice Bus Controller (R47, R69). -/
structure State.AtRestInLoading (s : State) : Prop where
  view : s.view = View.reset
  stopped : s.bus.ctl = .stopped
  silent : s.bus.framer = .off

/-- The view law (R31, R32): the strapped card is SELF from the end of loading and no other card is, in LOADING the view is as R47
gives it, and every entry agrees with its standing. -/
structure State.ViewLaw (s : State) : Prop where
  own : ∀ c : CardId, s.view.cards[c].presence = .self ↔ (c = s.start.cardId ∧ s.isLoading = false)
  loading : s.isLoading = true → s.AtRestInLoading
  agree : ∀ u : Uplink, s.view.entries[u].state.agrees (s.standing u)

/-- The law R32 states in its last paragraph, of one uplink. -/
def State.inServiceNow (s : State) (u : Uplink) : Prop :=
  (s.view.cards[cardOf u].presence = .self ∧ s.view.draining = false ∧ s.reported (portOf u) = .up) ∨
    ((∃ d, s.view.cards[cardOf u].presence = .present d) ∧ s.view.cards[cardOf u].recheck = false ∧
      ∃ st, s.view.cards[cardOf u].lastHeard = some st ∧ st[portOf u] = .up)

/-- An entry in ADMITTED or SETTLING has its first-admission mark clear (R32, R33). -/
def State.MarkLaw (s : State) : Prop :=
  ∀ u : Uplink, (∃ r, s.view.entries[u].state = .dark r) ∨ s.view.entries[u].firstMark = false

/-! ### Notice bus -/

/-- The presence deadline is suspended. -/
def Presence.isSuspended : Presence → Bool
  | .present .suspended => true
  | .withdrawn .suspended => true
  | .present (.due _) => false
  | .withdrawn (.due _) => false
  | .self => false
  | .unheard => false
  | .absent => false

/-- The Notice Bus Controller's law: it is STOPPED in LOADING (R69); the framer is off exactly where the controller receives nothing (R52, R53); a frame is sent
only in OPEN and in SERVE (R58); the abort run is below 16 (R62); the clash mark is set exactly in CLASHED and, kept, in FAULT
(R64 to R66); isolation is in force exactly in FAULT (R64, R65, R69), and deadlines are suspended only then and run only
otherwise (R44, R46); a frame in reception is short of its 49 bit times, with no sync mismatch so far (R55, R56), and so is a frame of its own that
is not completed (R61). -/
structure State.BusLaw (s : State) : Prop where
  loading : s.isLoading = true → s.bus.ctl = .stopped
  framerOff : s.bus.framer = .off ↔ s.bus.ctl.receives = false
  sending : s.drivesLine = true → s.bus.ctl = .open ∧ s.isServe = true
  run : s.bus.abortRun < Config.abortLimit
  clashed : s.bus.ctl = .clashed → s.bus.clashMark = true
  marked : s.bus.clashMark = true → s.bus.ctl = .clashed ∨ s.bus.ctl = .fault
  isolated : s.view.isolated = true ↔ s.bus.ctl = .fault
  suspended : ∀ c : CardId, s.view.cards[c].presence.isSuspended = true → s.view.isolated = true
  running : s.view.isolated = true → ∀ c : CardId, s.view.cards[c].presence.dueTime = none
  inFrame : ∀ aborted taken, s.bus.framer = .receiving aborted taken →
    taken.length < Config.frameLength ∧ syncHolds taken = true
  inOwn : ∀ cls status sent, s.bus.framer = .sending cls status sent → sent < Config.frameLength

/-- The sending side's law: never draining with the rejoin mark set (R155), withdraw-due only while draining (R74), at most K
start times in the history, none in LOADING (R71, R77). -/
structure State.SenderLaw (s : State) : Prop where
  drainRejoin : ¬ (s.view.draining = true ∧ s.sender.rejoin = true)
  withdraw : s.sender.withdrawDue = true → s.view.draining = true
  history : s.sender.history.length ≤ s.start.settings.txLimit
  quiet : s.isLoading = true → s.sender.history = []

/-! ### Group Store -/

/-- What COMMIT's checks 1 to 4 ask of a record (R89, R149). -/
structure Record.Valid (r : Record) : Prop where
  tier0 : 1 ≤ r.tier0Count
  once : r.named.Nodup
  weights : ∀ m ∈ r.members, 1 ≤ m.2.weight ∧ m.2.weight ≤ 16
  minLive : 1 ≤ r.minLive ∧ r.minLive ≤ r.tier0Count

/-- A member set of a tier as a record and the quotas give it: not empty, ascending, of that tier's members, each holding exactly
its quota and no slot held by anything else (R90). -/
structure Group.HoldsQuotas (x : Group) (t : Tier) (m : List MemberIdx) : Prop where
  some : m ≠ []
  ascending : m.Pairwise (· < ·)
  ofTier : ∀ i ∈ m, ∃ seat, x.record.seats[i] = Option.some seat ∧ seat.tier = t
  filled : ∀ k : Slot, ∃ i ∈ m, x.spread[k] = .member i
  quotas : ∀ i ∈ m, slotCount x.spread (.member i) = quota x.record.weight m i

/-- The table of R90 for a group that is not UNUSED. -/
def Group.SpreadLaw (x : Group) : Prop :=
  match x.mode with
  | .unused => False
  | .tier0 => x.tier = .tier .t0 ∧ ∃ m, x.set = .members m ∧ x.record.minLive ≤ m.length ∧ x.HoldsQuotas .t0 m
  | .tier0Short => x.tier = .tier .t0 ∧ ∃ m, x.set = .members m ∧ m.length < x.record.minLive ∧ x.HoldsQuotas .t0 m
  | .tier1 => x.tier = .tier .t1 ∧ ∃ m, x.set = .members m ∧ x.HoldsQuotas .t1 m
  | .escape => x.tier = .escape ∧ x.set = .escape ∧ x.record.escape.isSome = true ∧ ∀ k : Slot, x.spread[k] = .escape
  | .dark => x.tier = .none ∧ x.set = .empty ∧ ∀ k : Slot, x.spread[k] = .empty

/-- A pending record's record is valid; a release has none. -/
def PendingKind.Valid : PendingKind → Prop
  | .record r => r.Valid
  | .release => True

/-- The record that a running BUILD job has taken is valid. -/
def Job.Valid : Job → Prop
  | .build _ k _ => k.Valid
  | .urgent _ _ => True
  | .calm _ _ => True
  | .sweep _ => True

/-- The group law (R89, R90, R102): every record in the pool, in a BUILD job or installed is valid, the groups that are not UNUSED
stand in ascending number, and each keeps the spread law. -/
structure State.GroupLaw (s : State) : Prop where
  pool : ∀ x ∈ s.store.pool, x.kind.Valid
  job : ∀ j, s.engine.job = some j → j.Valid
  ascending : (s.store.groups.map fun x => x.number).Pairwise (· < ·)
  record : ∀ x ∈ s.store.groups, x.record.Valid
  spread : ∀ x ∈ s.store.groups, x.SpreadLaw

/-- The member lists (R91, R92): ascending, and group g in u's list exactly when g's installed record names u. -/
structure Store.ListLaw (st : Store) : Prop where
  ascending : ∀ u : Uplink, st.memberLists[u].Pairwise (· < ·)
  named : ∀ (u : Uplink) (g : GroupNo), g ∈ st.memberLists[u] ↔ st.namesUplink g u = true

/-! ### Repair Engine -/

/-- The worklist law (R107, R148): one entry for an uplink and one BUILD entry for a group at most, BUILD entries exactly for the
groups in the pool, each there once, and at most 16 places. -/
structure State.WorkLaw (s : State) : Prop where
  uplinks : ((s.engine.urgent ++ s.engine.calm).map fun w => w.uplink).Nodup
  builds : s.engine.build.Nodup
  pooled : (s.store.pool.map fun x => x.group).Nodup
  same : ∀ g : GroupNo, g ∈ s.engine.build ↔ s.store.pendingFlag g = true
  places : s.store.pool.length ≤ Config.poolPlaces

/-- The episode law (R122 to R124, R161): with no episode open the engine is at rest; an open one has a settle deadline exactly
while the engine is at rest; its counts are at most 65535 and its group set is ascending; the Journal's flag follows it. -/
structure State.EpisodeLaw (s : State) : Prop where
  closed : s.engine.episode = none → s.engine.atRest = true
  settle : ∀ e, s.engine.episode = some e → (e.settle.isSome = true ↔ s.engine.atRest = true)
  counts : ∀ e, s.engine.episode = some e → e.slotsMoved ≤ Config.countMax ∧ e.viewChanges ≤ Config.countMax
  set : ∀ e, s.engine.episode = some e → e.groups.Pairwise (· < ·)
  flag : s.journal.episodeOpen = s.engine.episode.isSome

/-! ### Lookup Unit, Journal, settings -/

/-- The lookup port's law: at most 16 requests (R128), the drop sets in ascending number (R134, R135), and outside SERVE no request
(R139). -/
structure State.LookupLaw (s : State) : Prop where
  queue : s.lookup.queue.length ≤ Config.queuePlaces
  uplinks : s.lookup.dropUplinks.Pairwise (· < ·)
  groups : s.lookup.dropGroups.Pairwise (· < ·)
  quiet : s.isServe = false → s.lookup.queue = []

/-- The ring's law (R160 to R163): at most 64 records, fewer than 32 of them held back, and none held back with no episode open. -/
structure Journal.Law (j : Journal) : Prop where
  size : j.size ≤ Config.ringPlaces
  heldBack : j.heldBack.length < Config.forcedCommit
  closed : j.episodeOpen = false → j.heldBack = []

/-- The ranges of spec/12_formats.md section 12.5, with U below S and the presence window at least two beacon intervals (R170). -/
structure Settings.Law (c : Settings) : Prop where
  lossDebounce : 1 ≤ c.lossDebounce ∧ c.lossDebounce ≤ 64
  returnDebounce : 1 ≤ c.returnDebounce ∧ c.returnDebounce ≤ 64
  charge : c.charge ≤ 2047
  suppress : 1 ≤ c.suppress ∧ c.suppress ≤ 8191
  reuse : c.reuse < c.suppress
  decayRate : 1 ≤ c.decayRate ∧ c.decayRate ≤ 512
  decayTick : 10 ≤ c.decayTick ∧ c.decayTick ≤ 2550 ∧ c.decayTick % 10 = 0
  admissionDelay : c.admissionDelay ≤ 65535
  beaconInterval : 1 ≤ c.beaconInterval ∧ c.beaconInterval ≤ 64
  presenceWindow : 2 ≤ c.presenceWindow ∧ c.presenceWindow ≤ 255 ∧ 2 * c.beaconInterval ≤ c.presenceWindow
  txLimit : 2 ≤ c.txLimit ∧ c.txLimit ≤ 16
  txWindow : 10 ≤ c.txWindow ∧ c.txWindow ≤ 1000 ∧ c.txWindow % 10 = 0
  settleTime : 1 ≤ c.settleTime ∧ c.settleTime ≤ 255

/-- The settings in force keep their law. -/
def State.SettingsLaw (s : State) : Prop := s.start.settings.Law

/-! ### What a command leaves as it was -/

/-- Everything but the entries of the view and what the moves of entries hand on: the URGENT and CALM queues, the episode, the uplink
drops, the Journal and the count of order choices (R35, R36). -/
structure State.SameButEntries (s t : State) : Prop where
  pins : t.pins = s.pins
  clock : t.clock = s.clock
  start : t.start = s.start
  monitors : t.monitors = s.monitors
  cards : t.view.cards = s.view.cards
  draining : t.view.draining = s.view.draining
  isolated : t.view.isolated = s.view.isolated
  bus : t.bus = s.bus
  sender : t.sender = s.sender
  store : t.store = s.store
  build : t.engine.build = s.engine.build
  sweep : t.engine.sweep = s.engine.sweep
  job : t.engine.job = s.engine.job
  completed : t.engine.completed = s.engine.completed
  discarded : t.engine.discarded = s.engine.discarded
  lookup : ∃ l, t.lookup = { s.lookup with dropUplinks := l }
  port : t.port = s.port
  freeUse : t.model.freeUse = s.model.freeUse
  pending : t.pending = s.pending

/-- The record appended last of those the ring holds. -/
def Journal.newest (j : Journal) : Option JournalRecord := (j.committed ++ j.heldBack).getLast?

/-- The table port takes the next command: no reset line is asserted and a transaction may begin (R142). -/
structure State.TakesCommand (s : State) : Prop where
  resetN : s.pins.resetN = false
  warmN : s.pins.warmN = false
  transaction : s.port.transaction = .released ∨ s.port.transaction = .selected

/-- The state with a command taken and this response to shift out (R142). -/
def State.responding (response : List Byte) (s : State) : State :=
  { s with port := { s.port with transaction := .taken, response := response } }

/-! ### What an event of the view hands on (R35, R36) -/

/-- The records the ring holds, oldest first. -/
def Journal.records (j : Journal) : List JournalRecord := j.committed ++ j.heldBack

/-- The entry of `u` leaves ADMITTED from `s` to `t` (R35). -/
def State.leaves (s t : State) (u : Uplink) : Bool := s.isAdmitted u && !t.isAdmitted u

/-- The entry of `u` enters ADMITTED from `s` to `t` (R36). -/
def State.enters (s t : State) (u : Uplink) : Bool := !s.isAdmitted u && t.isAdmitted u

/-- The VIEW_CHANGE records from `s` to `t` in ascending uplink number: one for each entry whose state or reason differs (R35, R36). -/
def State.viewChanges (s t : State) : List JournalBody :=
  (List.finRange 128).filterMap fun u =>
    if s.view.entries[u].state.detail = t.view.entries[u].state.detail then none
    else some (.viewChange u t.view.entries[u].state.detail)

/-- The uplinks that leave ADMITTED and for which no URGENT entry waits: each makes one (R108). -/
def State.madeUrgent (s t : State) : List Uplink :=
  (List.finRange 128).filter fun u => s.leaves t u && !waitingIn s.engine.urgent u

/-- The uplinks that enter ADMITTED and for which no CALM entry waits: each makes one (R109). -/
def State.madeCalm (s t : State) : List Uplink :=
  (List.finRange 128).filter fun u => s.enters t u && !waitingIn s.engine.calm u

/-- The notices from `s` to `t`: one for each entry that leaves or enters ADMITTED (R35, R36). -/
def State.notices (s t : State) : Nat := (List.finRange 128).countP fun u => s.leaves t u || s.enters t u

/-- The episode after those notices: each counts as a view change, the first opens an episode where the engine is at rest with none open,
and an entry made ends settling (R122 to R124). -/
def State.episodeAfter (s t : State) : Option Episode :=
  match s.engine.episode with
  | none => if s.engine.atRest = true ∧ s.notices t ≠ 0 then some ⟨t.clock.now, [], 0, s.notices t, none⟩ else none
  | some e =>
    if s.notices t = 0 then some e
    else some { e with
      viewChanges := min (e.viewChanges + s.notices t) 65535
      settle := if s.madeUrgent t = [] ∧ s.madeCalm t = [] then e.settle else none }

/-- All that the moves of entries from `s` to `t` hand on, where the event first appends the records `first` (R35, R36): these records and
then the VIEW_CHANGE records are the newest, stamped with the time base, the ring keeping 64 and counting what it loses; the drops
of the uplinks that left ADMITTED are in the set; URGENT and CALM work is at the tails in ascending uplink number, a waiting entry of
the other class leaving its place; the episode counts the notices. -/
structure State.HandsOn (s : State) (first : List JournalBody) (t : State) : Prop where
  records : s.journal.size ≤ 64 →
    let all := s.journal.records ++ (first ++ s.viewChanges t).map fun b => ⟨b, t.clock.timeBase⟩
    t.journal.records = all.drop (all.length - 64) ∧
      t.journal.lost.toNat = min (s.journal.lost.toNat + (all.length - 64)) 65535
  drops : ∀ u : Uplink, u ∈ t.lookup.dropUplinks ↔ u ∈ s.lookup.dropUplinks ∨ s.leaves t u = true
  urgent : t.engine.urgent = (s.engine.urgent.filter fun w => !(s.madeCalm t).contains w.uplink) ++
    (s.madeUrgent t).map fun u => ⟨u, none⟩
  calm : t.engine.calm = (s.engine.calm.filter fun w => !(s.madeUrgent t).contains w.uplink) ++
    (s.madeCalm t).map fun u => ⟨u, none⟩
  episode : t.engine.episode = s.episodeAfter t
  flag : t.journal.episodeOpen =
    (s.journal.episodeOpen || (s.engine.episode.isNone && s.engine.atRest && decide (s.notices t ≠ 0)))

end Sys2Proof.Machine
end

