-- ==== Sys2Proof/Certificates/Slice0/Obligations.lean ====
section
/-! DEFINITION. The statements for the provers, from the numbered rules of spec/, chapter by chapter. -/

open Sys2Proof Sys2Proof.Machine

/-! ### The step -/

/-- The command at the front of the queue is run with the queue's rest; with no command waiting one µs passes and nothing else
changes (R158; the choice is log 1). -/
def Obligations.StepRunsTheFrontCommandOrOneMicrosecond : Prop :=
  (∀ (c : Instr) (rest : List Instr) (s : State), s.pending = c :: rest → step s = exec c (s.withPending rest)) ∧
    ∀ s : State, s.pending = [] → step s = .next { s with clock := { s.clock with
      now := s.clock.now + 1
      timeBase := if s.pins.resetN = true then s.clock.timeBase else s.clock.timeBase + 1#32 } }

/-- No command stops the part, and no command changes the queue. This is the model's choice, of which the spec says nothing: the queue is
the model's own (log 1), and a row whose condition does not hold goes on with nothing changed (log 3). -/
def Obligations.EveryCommandGoesOnAndKeepsTheQueue : Prop :=
  ∀ (c : Instr) (s : State), ∃ t, exec c s = .next t ∧ t.pending = s.pending

/-! ### Light Monitors -/

/-- R5: a fall in UP or HELD starts the loss debounce; the reported status stays, nothing is charged, counted or handed on. In
LOADING, and at a port in OFF, a fall changes the level of the line and nothing else (from R1 and R15). -/
def Obligations.LightFallInServiceStartsTheLossDebounce : Prop :=
  (∀ (p : Port) (s : State), s.isLoading = true ∨ s.monitors[p].state = .off →
    exec (.lightFall p) s = .next { s with pins := { s.pins with light := setAt s.pins.light p false } }) ∧
  ∀ (p : Port) (o : Origin) (s : State), s.isLoading = false → s.pins.light[p] = true →
    s.monitors[p].state = (match o with | .up => .up | .held => .held) →
    ∃ t, exec (.lightFall p) s = .next t ∧
      t = { s with
        pins := { s.pins with light := setAt s.pins.light p false }
        monitors := setAt s.monitors p
          { s.monitors[p] with state := .fading o (s.clock.now + 10 * s.start.settings.lossDebounce) } } ∧
      t.reported p = (match o with | .up => .up | .held => .held)

/-- R8: a rise in DARK starts the return debounce; the status stays LOST, nothing is charged or counted. In LOADING, and at a port in OFF, a
rise changes the level of the line and nothing else (from R1 and R15). -/
def Obligations.LightRiseInDarkStartsTheReturnDebounce : Prop :=
  (∀ (p : Port) (s : State), s.isLoading = true ∨ s.monitors[p].state = .off →
    exec (.lightRise p) s = .next { s with pins := { s.pins with light := setAt s.pins.light p true } }) ∧
  ∀ (p : Port) (s : State), s.isLoading = false → s.pins.light[p] = false → s.monitors[p].state = .dark →
    ∃ t, exec (.lightRise p) s = .next t ∧
      t = { s with
        pins := { s.pins with light := setAt s.pins.light p true }
        monitors := setAt s.monitors p
          { s.monitors[p] with state := .returning (s.clock.now + 1000 * s.start.settings.returnDebounce) } } ∧
      s.reported p = .lost ∧ t.reported p = .lost

/-- R6, R9: a rise in FADING is a glitch, counted and nothing more, and a later fall has a fresh loss debounce; a fall in RETURNING goes back to DARK, neither charged nor
counted, and a later rise has a fresh return debounce. The reported status changes in neither. -/
def Obligations.FlickersAreNotCharged : Prop :=
  (∀ (p : Port) (o : Origin) (out : Nat) (s : State), s.isLoading = false → s.pins.light[p] = false →
    s.monitors[p].state = .fading o out →
    ∃ t, exec (.lightRise p) s = .next t ∧
      t = { s with
        pins := { s.pins with light := setAt s.pins.light p true }
        monitors := setAt s.monitors p { s.monitors[p] with
          state := (match o with | .up => .up | .held => .held)
          glitches := if s.monitors[p].glitches = 65535#16 then 65535#16 else s.monitors[p].glitches + 1#16 } } ∧
      t.reported p = s.reported p ∧
      ∃ r, exec (.lightFall p) t = .next r ∧
        r.monitors[p] = { t.monitors[p] with state := .fading o (s.clock.now + 10 * s.start.settings.lossDebounce) }) ∧
    ∀ (p : Port) (out : Nat) (s : State), s.isLoading = false → s.pins.light[p] = true →
      s.monitors[p].state = .returning out →
      ∃ t, exec (.lightFall p) s = .next t ∧
        t = { s with
          pins := { s.pins with light := setAt s.pins.light p false }
          monitors := setAt s.monitors p { s.monitors[p] with state := .dark } } ∧
        s.reported p = .lost ∧ t.reported p = .lost ∧
        ∃ r, exec (.lightRise p) t = .next r ∧
          r.monitors[p] = { s.monitors[p] with state := .returning (s.clock.now + 1000 * s.start.settings.returnDebounce) }

/-- R7, R20, R13, R72: the loss timer runs out in FADING. The loss is charged and counted and LOST is handed on: to the sending side
as loss-due from origin UP and beacon-due from origin HELD, and to the view, where the own entry goes DARK with reason LOST unless
the card drains; the move hands on its record, its notice and its drop (R35, R108). That time comes up to the expiry is the model's
choice (log 2). -/
def Obligations.LossTimerExpiryConfirmsTheLoss : Prop :=
  ∀ (p : Port) (o : Origin) (out : Nat) (s : State), s.monitors[p].state = .fading o out →
    ∃ t, exec (.lossTimerExpiry p) s = .next t ∧
      State.SameButEntries { s with
        clock := (s.advanceTo out).clock
        monitors := setAt s.monitors p
          { state := .dark
            penalty := min (s.monitors[p].penalty + s.start.settings.charge) 8191
            suppressed := s.monitors[p].suppressed ||
              decide (s.start.settings.suppress ≤ min (s.monitors[p].penalty + s.start.settings.charge) 8191)
            losses := if s.monitors[p].losses = 65535#16 then 65535#16 else s.monitors[p].losses + 1#16
            glitches := s.monitors[p].glitches }
        sender := match o with
          | .up => { s.sender with lossDue := true }
          | .held => { s.sender with beaconDue := true } } t ∧
      t.clock.now = max s.clock.now out ∧ s.HandsOn [] t ∧
      (∀ v, v ≠ uplinkOf s.start.cardId p → t.view.entries[v] = s.view.entries[v]) ∧
      (s.view.cards[s.start.cardId].presence = .self →
        t.view.entries[uplinkOf s.start.cardId p] =
          { s.view.entries[uplinkOf s.start.cardId p] with
            state := .dark (if s.view.draining = true then .withdrawn else .lost) })

/-- R10, R13, R72: the return timer runs out in RETURNING. With the suppressed flag set the monitor is HELD, else UP; no charge, no
count; beacon-due or return-due is raised, and the own entry finds its standing, DARK with reason WITHDRAWN while the card drains; the
move hands on its record, notice and drop (R35, R36, R108, R109). That time comes up to the expiry is the model's choice (log 2). -/
def Obligations.ReturnTimerExpiryReadsTheSuppressedFlag : Prop :=
  ∀ (p : Port) (out : Nat) (s : State), s.monitors[p].state = .returning out →
    ∃ t, exec (.returnTimerExpiry p) s = .next t ∧
      State.SameButEntries { s with
        clock := (s.advanceTo out).clock
        monitors := setAt s.monitors p
          { s.monitors[p] with state := if s.monitors[p].suppressed = true then .held else .up }
        sender := if s.monitors[p].suppressed = true then { s.sender with beaconDue := true }
          else { s.sender with returnDue := true } } t ∧
      t.clock.now = max s.clock.now out ∧ s.HandsOn [] t ∧
      (∀ v, v ≠ uplinkOf s.start.cardId p → t.view.entries[v] = s.view.entries[v]) ∧
      (s.view.cards[s.start.cardId].presence = .self →
        t.view.entries[uplinkOf s.start.cardId p] =
          s.view.entries[uplinkOf s.start.cardId p].applyStanding (max s.clock.now out) s.start.settings.admissionDelay
            (if s.view.draining = true then .dark .withdrawn
              else if s.monitors[p].suppressed = true then .dark .held else .inService))

/-- R31, R32: what a standing makes of an entry. -/
def Obligations.StandingIsAppliedAsTheTableGives : Prop :=
  ∀ (now delay : Nat) (e : Entry),
    (∀ r, e.applyStanding now delay (.dark r) = ⟨.dark r, e.firstMark⟩) ∧
    (e.state = .admitted → e.applyStanding now delay .inService = e) ∧
    (∀ d, e.state = .settling d → e.applyStanding now delay .inService = e) ∧
    ∀ r, e.state = .dark r → e.applyStanding now delay .inService =
      if e.firstMark = true then ⟨.admitted, false⟩
      else if delay = 0 then ⟨.admitted, false⟩
      else ⟨.settling (now + 1000 * delay), false⟩

/-! ### Flap damping -/

/-- R22 to R24: one decay tick. Every port not in OFF loses floor(P × r / 1024), at least 1 of a positive figure; a set flag is cleared
at U or below, and then HELD becomes UP and a FADING origin HELD becomes UP; a status that passes from HELD to UP raises return-due
and brings the own entry into service, with its record and notice (R35, R36); the next tick falls one interval later. The release moves
HELD to UP, gives a FADING monitor with origin HELD the origin UP with its loss timer as it stands, and leaves every other state (R11,
R12). The ports act one after another in ascending number, so their records and CALM entries stand in that order (R31; that it is so for
the ports of one tick is DEDUCED, log 9). That time comes up to the tick is the model's choice (log 2). -/
def Obligations.DecayTickLowersEveryWatchedPort : Prop :=
  (MonitorState.held.released = .up ∧ (∀ out, (MonitorState.fading .held out).released = .fading .up out) ∧
    ∀ m : MonitorState, m.isHeld = false → m.released = m) ∧
  ∀ (time : Nat) (s : State), s.clock.nextTick = some time →
    ∃ t, exec .decayTick s = .next t ∧
      State.SameButEntries { s with
        clock := { (s.advanceTo time).clock with nextTick := some (time + 1000 * s.start.settings.decayTick) }
        monitors := t.monitors
        sender := { s.sender with
          returnDue := s.sender.returnDue ||
            ((List.finRange 8).any fun p => s.monitors[p].suppressed && s.monitors[p].state.isHeld &&
              decide (t.monitors[p].suppressed = false)) } } t ∧
      s.HandsOn [] t ∧
      (∀ p : Port, s.monitors[p].state = .off → t.monitors[p] = s.monitors[p]) ∧
      (∀ p : Port, s.monitors[p].state ≠ .off →
        let dec := if s.monitors[p].penalty * s.start.settings.decayRate / 1024 = 0 then min 1 s.monitors[p].penalty
          else s.monitors[p].penalty * s.start.settings.decayRate / 1024
        let cleared := s.monitors[p].suppressed && decide (s.monitors[p].penalty - dec ≤ s.start.settings.reuse)
        t.monitors[p] =
          { state := if cleared = true then s.monitors[p].state.released else s.monitors[p].state
            penalty := s.monitors[p].penalty - dec
            suppressed := s.monitors[p].suppressed && !cleared
            losses := s.monitors[p].losses
            glitches := s.monitors[p].glitches }) ∧
      ∀ v : Uplink, t.view.entries[v] =
        if cardOf v = s.start.cardId ∧ t.reported (portOf v) ≠ s.reported (portOf v) then
          s.view.entries[v].applyStanding (max s.clock.now time) s.start.settings.admissionDelay (t.standing v)
        else s.view.entries[v]

/-- R12, R19, R27: every step keeps the figures at 8191 or below, and no port is left held with its suppressed flag clear. R23: a positive
figure loses at least 1 and never more than itself at a tick, so it reaches 0 in at most as many ticks as it counts. -/
def Obligations.DampingLawIsKept : Prop :=
  (∀ s t : State, s.DampingLaw → step s = .next t → t.DampingLaw) ∧
    ∀ rate figure : Nat, rate ≤ 512 →
      decrement rate figure ≤ figure ∧ (0 < figure → 1 ≤ decrement rate figure) ∧
        (fun x => x - decrement rate x)^[figure] figure = 0

/-- R1, R19: a monitor in OFF leaves it only through a reset (and the end of its loading), and until then its figure and flag are
frozen and its counters move only by being cleared. -/
def Obligations.OffPortsAreFrozen : Prop :=
  ∀ (c : Instr) (p : Port) (s t : State), exec c s = .next t → s.monitors[p].state = .off →
    (match c with
      | .powerUp _ | .resetNAsserted | .warmNAsserted | .chipSelectRelease _ | .endOfLoading _ => False
      | _ => True) →
    t.monitors[p].state = .off ∧ t.monitors[p].penalty = s.monitors[p].penalty ∧
      t.monitors[p].suppressed = s.monitors[p].suppressed ∧
      (c ≠ .readCounters → t.monitors[p] = s.monitors[p])

/-! ### The Uplink View -/

/-- R33, R36, R109, R123: an admission deadline. The entry is ADMITTED, a VIEW_CHANGE is the newest record, the uplink's work is CALM, the
episode counts the notice, and no drop is handed on. That time comes up to the deadline is the model's choice (log 2). -/
def Obligations.AdmissionDeadlineAdmits : Prop :=
  ∀ (u : Uplink) (deadline : Nat) (s : State), s.view.entries[u].state = .settling deadline →
    ∃ t, exec (.admissionDeadline u) s = .next t ∧
      State.SameButEntries { s with clock := (s.advanceTo deadline).clock } t ∧
      t.view.entries = setAt s.view.entries u { s.view.entries[u] with state := .admitted } ∧
      t.lookup = s.lookup ∧ s.HandsOn [] t ∧
      waitingIn t.engine.calm u = true ∧
      (waitingIn s.engine.calm u = false → waitingIn t.engine.urgent u = false) ∧
      t.journal.newest = some ⟨.viewChange u .admitted, t.clock.timeBase⟩

/-- R43, R35, R36: a presence deadline. The card is ABSENT with its last status kept and its recheck mark clear, its eight entries are DARK
with reason ABSENT; CARD_LOST and then a VIEW_CHANGE for each entry that changed are the newest records, and each entry that was
ADMITTED hands on its notice and drop. That time comes up to the deadline is the model's choice (log 2). -/
def Obligations.PresenceDeadlineLosesTheCard : Prop :=
  ∀ (c : CardId) (time : Nat) (s : State), s.view.cards[c].presence.dueTime = some time →
    ∃ t, exec (.presenceDeadline c) s = .next t ∧
      State.SameButEntries { s with
        clock := (s.advanceTo time).clock
        view := { s.view with cards := setAt s.view.cards c ⟨.absent, s.view.cards[c].lastHeard, false⟩ } } t ∧
      s.HandsOn [.cardLost c] t ∧
      ∀ u : Uplink,
        (cardOf u ≠ c → t.view.entries[u] = s.view.entries[u]) ∧
        (cardOf u = c → t.view.entries[u] = { s.view.entries[u] with state := .dark .absent })

/-- R31, R32, R47: every step keeps the strapped card SELF, the view of LOADING, and every entry in agreement with its standing. By this
law (R32, last paragraph) an entry is ADMITTED only while its card is SELF, not draining, with the port reported UP, or PRESENT, with its
recheck mark clear and the port last heard UP. -/
def Obligations.ViewLawIsKept : Prop :=
  (∀ s t : State, s.ResetLaw → s.ViewLaw → step s = .next t → t.ViewLaw) ∧
    ∀ (s : State) (u : Uplink), s.ViewLaw → s.isAdmitted u = true → s.inServiceNow u

/-- R34: once clear, a first-admission mark stays clear until a reset, and every step keeps it clear in ADMITTED and SETTLING. -/
def Obligations.FirstMarkIsSpentOnce : Prop :=
  (∀ s t : State, s.MarkLaw → step s = .next t → t.MarkLaw) ∧
    ∀ (c : Instr) (u : Uplink) (s t : State), exec c s = .next t → s.view.entries[u].firstMark = false →
      (match c with
        | .powerUp _ | .resetNAsserted | .warmNAsserted | .chipSelectRelease _ => False
        | _ => True) →
      t.view.entries[u].firstMark = false

/-! ### The notice bus -/

/-- R41, R42, R51 to R53, R56, R57, R85, section 12.2: the frame another card sends with this class and these statuses, taken after a start
edge at an idle count of 10 or more, or as the rest of a frame in reception, is counted and applied: the card's record takes the
statuses, a full presence window and a clear recheck mark, and its eight entries find their standing; CARD_SEEN, CARD_RETURNED or
CARD_WITHDRAWN where R41 and R42 give one and then the VIEW_CHANGE records are the newest, with the notices and drops (R35, R36). A start
edge below 10 restarts the count and starts no frame, and what follows it is taken outside a frame, where each recessive bit time counts
as idle and a dominant one is a start edge again; in STOPPED and FAULT nothing is received. (A controller that may start joins the edge,
R58, as FrameStartFixesTheFrame says. That a frame may be taken in parts, and what of it the rows give, is the model's choice, log 12.) -/
def Obligations.FrameOfAnotherCardIsApplied : Prop :=
  (∀ (cls : FrameClass) (c : CardId) (st : Statuses),
    let covered := bitsOf cls.code ++ bitsOf (BitVec.ofNat 4 c.val) ++
      [7, 6, 5, 4, 3, 2, 1, 0].flatMap fun p : Port => bitsOf st[p].code
    lineBits cls c st = [true, false, true, false, true, false, true, false] ++ covered ++ bitsOf (crcOf covered) ++ [true, true]) ∧
  (∀ (gap : Nat) (bits : List Bool) (s : State),
    (s.bus.ctl.receives = false → exec (.frameReceived gap bits) s = .next s) ∧
    (∀ idle, s.bus.ctl.receives = true → s.bus.framer = .gap idle → idle + gap < 10 →
      exec (.frameReceived gap bits) s = .next (State.takeBits bits { s with bus := { s.bus with framer := .gap 0 } })) ∧
    ∀ idle n later, s.bus.framer = .gap idle →
      s.takeBits (List.replicate n true ++ later) =
        State.takeBits later { s with bus := { s.bus with framer := .gap (idle + n) } } ∧
      (idle < 10 → s.takeBits (false :: later) = State.takeBits later { s with bus := { s.bus with framer := .gap 0 } }) ∧
      (10 ≤ idle → s.mayStart = false →
        s.takeBits (false :: later) = State.takeBits later { s with bus := { s.bus with framer := .receiving false [] } })) ∧
  (∀ s : State, s.takeBits [] = s) ∧
  ∀ (gap : Nat) (bits : List Bool) (cls : FrameClass) (c : CardId) (st : Statuses) (s : State),
    s.bus.ctl.receives = true → c ≠ s.start.cardId →
    ((∃ idle, s.bus.framer = .gap idle ∧ 10 ≤ idle + gap ∧ s.mayStart = false ∧ bits = lineBits cls c st) ∨
      ∃ aborted taken, s.bus.framer = .receiving aborted taken ∧ taken.length < 48 ∧ taken ++ bits = lineBits cls c st) →
    ∃ t, exec (.frameReceived gap bits) s = .next t ∧
      State.SameButEntries { s with
        bus := { s.bus with
          framer := .gap 0
          framesReceived := if s.bus.framesReceived = 65535#16 then 65535#16 else s.bus.framesReceived + 1#16 }
        view := { s.view with
          cards := setAt s.view.cards c ⟨if cls = .withdraw then .withdrawn (.due (s.clock.now + 1000 * s.start.settings.presenceWindow))
            else .present (.due (s.clock.now + 1000 * s.start.settings.presenceWindow)), some st, false⟩ } } t ∧
      s.HandsOn (match s.view.cards[c].presence with
        | .unheard => if cls = .withdraw then [.cardWithdrawn c] else [.cardSeen c]
        | .absent => if cls = .withdraw then [.cardWithdrawn c] else [.cardSeen c]
        | .withdrawn _ => if cls = .withdraw then [] else [.cardReturned c]
        | .present _ => if cls = .withdraw then [.cardWithdrawn c] else []
        | .self => if cls = .withdraw then [.cardWithdrawn c] else []) t ∧
      ∀ u : Uplink,
        (cardOf u ≠ c → t.view.entries[u] = s.view.entries[u]) ∧
        (cardOf u = c → t.view.entries[u] =
          s.view.entries[u].applyStanding s.clock.now s.start.settings.admissionDelay
            (if cls = .withdraw then .dark .withdrawn
              else match st[portOf u] with
                | .up => .inService
                | .lost => .dark .lost
                | .held => .dark .held
                | .unwatched => .dark .unwatched))

/-- R52, R53, R55 to R57, R60, R66: the other ends of a frame, taken whole or as the rest of one in reception. At a sync bit that differs, and
at a dominant end bit, a framing error is counted, at a CRC mismatch a CRC error, neither for a frame in which this chip aborted, and
a discarded frame does nothing else; short of its 48 bits, with no sync mismatch, the frame stays in reception with its progress; a
valid frame with this chip's own id is counted as received and makes an OPEN or MUTED controller CLASHED, with a CLASH record, and does
nothing else. What the line shows after the frame has ended (`rest`) is taken from there on, with the idle count at 0. (The grain, and
progress as the bits that the rows have given, are the model's choice, log 12.) -/
def Obligations.DiscardedAndClashingFrames : Prop :=
  ∀ (gap : Nat) (bits rest taken : List Bool) (aborted : Bool) (s : State), s.bus.ctl.receives = true →
    let wrong := fun (l : List Bool) (k : Nat) => l[k]? = some (decide (k % 2 = 1))
    ((s.bus.framer = .receiving aborted taken ∧ taken.length < 48 ∧ ∀ k < 8, ¬ wrong taken k) ∨
      ∃ idle, s.bus.framer = .gap idle ∧ 10 ≤ idle + gap ∧ s.mayStart = false ∧ aborted = false ∧ taken = []) →
    let frame := taken ++ bits
    let mismatch := ∃ k < 8, frame.length = k + 1 ∧ wrong frame k ∧ ∀ j < k, ¬ wrong frame j
    let inSync := ∀ k < 8, ¬ wrong frame k
    let wrongEnd := frame[46]? = some false ∨ frame[47]? = some false
    let crcHolds := bitsOf (crcOf ((frame.drop 8).take 22)) = (frame.drop 30).take 16
    (mismatch ∨ (inSync ∧ frame.length = 48 ∧ wrongEnd) →
      exec (.frameReceived gap (bits ++ rest)) s = .next (State.takeBits rest { s with bus := { s.bus with
        framer := .gap 0
        framingErrors := if aborted = true ∨ s.bus.framingErrors = 65535#16 then s.bus.framingErrors
          else s.bus.framingErrors + 1#16 } })) ∧
    (inSync → frame.length = 48 → ¬ wrongEnd → ¬ crcHolds →
      exec (.frameReceived gap (bits ++ rest)) s = .next (State.takeBits rest { s with bus := { s.bus with
        framer := .gap 0
        crcErrors := if aborted = true ∨ s.bus.crcErrors = 65535#16 then s.bus.crcErrors
          else s.bus.crcErrors + 1#16 } })) ∧
    (inSync → frame.length < 48 →
      exec (.frameReceived gap bits) s = .next { s with bus := { s.bus with framer := .receiving aborted frame } }) ∧
    ∀ (cls : FrameClass) (st : Statuses), frame = lineBits cls s.start.cardId st →
      exec (.frameReceived gap (bits ++ rest)) s = .next (State.takeBits rest
        (if s.bus.ctl = .clashed then { s with bus := { s.bus with
          framer := .gap 0
          framesReceived := if s.bus.framesReceived = 65535#16 then 65535#16 else s.bus.framesReceived + 1#16 } }
        else { s with
          bus := { s.bus with
            ctl := .clashed
            framer := .gap 0
            clashMark := true
            framesReceived := if s.bus.framesReceived = 65535#16 then 65535#16 else s.bus.framesReceived + 1#16 }
          journal := s.journal.append ⟨.clash s.start.cardId, s.clock.timeBase⟩ }))

/-- R55, R56, R86, R177: a frame in which the line changed any one bit after the start bit is discarded by every receiver: one error is
counted, and the frame is handed to no one. A wrong sync bit discards it at that bit (what follows is outside a frame, R53), any other at
its 49th. The CRC is a register of all ones, into which each bit goes by the step of R177 with the generator 1021 hex. -/
def Obligations.OneWrongBitDiscardsTheFrame : Prop :=
  (crcOf [] = 0xFFFF#16 ∧ ∀ (bits : List Bool) (b : Bool), crcOf (bits ++ [b]) =
    if b = (crcOf bits).getLsbD 15 then crcOf bits <<< 1 else (crcOf bits <<< 1) ^^^ 0x1021#16) ∧
  (∀ (n : Nat) (w : BitVec n), (bitsOf w).length = n ∧ ∀ i < n, (bitsOf w)[i]? = some (w.getLsbD (n - 1 - i))) ∧
  ∀ (gap idle : Nat) (cls : FrameClass) (c : CardId) (st : Statuses) (i : Fin 48) (s : State),
    s.bus.ctl.receives = true → s.bus.framer = .gap idle → 10 ≤ idle + gap → s.mayStart = false →
    let frame := (lineBits cls c st).modify i.val not
    (i.val < 8 → exec (.frameReceived gap (frame.take (i.val + 1))) s =
      .next { s with bus := { s.bus with framer := .gap 0, framingErrors := satInc s.bus.framingErrors } }) ∧
    (8 ≤ i.val → ∃ t, exec (.frameReceived gap frame) s = .next t ∧
      (t = { s with bus := { s.bus with framer := .gap 0, framingErrors := satInc s.bus.framingErrors } } ∨
        t = { s with bus := { s.bus with framer := .gap 0, crcErrors := satInc s.bus.crcErrors } }))

/-- R64, R44, R45: a dominant stretch of more than 64 bit times, no frame of this chip being on the line. The controller enters FAULT
with the clash mark kept and the abort run cleared, a frame in reception is a framing error unless this chip aborted in it, BUS_FAULT
is journalled under both policies, and under LOCAL before the VIEW_CHANGE records (DEDUCED, log 9); every presence deadline is suspended;
under HOLD no entry changes; under LOCAL every remote entry in service is DARK with reason ISOLATED, with its record, and its notice and
drop if it was ADMITTED (R35), the remote entries that were DARK keep their reasons and the own entries do not change. (`receiving`
stands for a frame of another chip that no row has given yet, log 12.) -/
def Obligations.StuckLineIsolates : Prop :=
  ∀ (stretch : Nat) (receiving : Bool) (s : State), s.bus.ctl.receives = true → 64 < stretch → s.drivesLine = false →
    ∃ t, exec (.stuckLine stretch receiving) s = .next t ∧
      State.SameButEntries { s with
        bus := { s.bus with
          ctl := .fault
          framer := .off
          abortRun := 0
          framingErrors := match s.bus.framer with
            | .receiving aborted _ => if aborted = true then s.bus.framingErrors else satInc s.bus.framingErrors
            | .gap _ => if receiving = true then satInc s.bus.framingErrors else s.bus.framingErrors
            | _ => s.bus.framingErrors }
        view := { s.view with
          isolated := true
          cards := Vector.ofFn fun c => { s.view.cards[c] with
            presence := s.view.cards[c].presence.suspend
            recheck := s.view.cards[c].recheck ||
              (decide (s.start.settings.policy = .localOnly) && s.view.cards[c].presence.heard) } } } t ∧
      s.HandsOn [.busFault] t ∧
      (s.start.settings.policy = .hold → t.view.entries = s.view.entries ∧
        t.journal = s.journal.append ⟨.busFault, s.clock.timeBase⟩) ∧
      (s.start.settings.policy = .localOnly → ∀ u : Uplink,
        (cardOf u = s.start.cardId → t.view.entries[u] = s.view.entries[u]) ∧
        (cardOf u ≠ s.start.cardId → ∀ d, s.view.cards[cardOf u].presence = .present d →
          s.view.cards[cardOf u].heard (portOf u) = .up →
          t.view.entries[u] = { s.view.entries[u] with state := .dark .isolated }) ∧
        (cardOf u ≠ s.start.cardId → s.ViewLaw → t.view.entries[u] = match s.view.entries[u].state with
          | .dark _ => s.view.entries[u]
          | .admitted => { s.view.entries[u] with state := .dark .isolated }
          | .settling _ => { s.view.entries[u] with state := .dark .isolated }))

/-- R65, R46: at 11 recessive bit times the controller leaves FAULT, to CLASHED if the clash mark is set and to OPEN if not, with its
idle count at 11; BUS_CLEAR is journalled, every suspended presence deadline restarts with a full window and beacon-due is raised.
Fewer bit times leave it in FAULT. -/
def Obligations.FaultRecoveryEndsIsolation : Prop :=
  ∀ (recessive : Nat) (s : State), s.bus.ctl = .fault →
    (recessive < 11 → exec (.faultRecovery recessive) s = .next s) ∧
    (11 ≤ recessive → exec (.faultRecovery recessive) s = .next { s with
      bus := { s.bus with
        ctl := if s.bus.clashMark = true then .clashed else .open
        framer := .gap 11 }
      journal := s.journal.append ⟨.busClear, s.clock.timeBase⟩
      view := { s.view with
        isolated := false
        cards := Vector.ofFn fun c => { s.view.cards[c] with
          presence := match s.view.cards[c].presence with
            | .present .suspended => .present (.due (s.clock.now + 1000 * s.start.settings.presenceWindow))
            | .withdrawn .suspended => .withdrawn (.due (s.clock.now + 1000 * s.start.settings.presenceWindow))
            | other => other } }
      sender := { s.sender with beaconDue := true } })

/-- R58, R77, R78: a frame starts when the controller is OPEN in SERVE with a flag raised, fewer than K starts lie within the window, and
the idle count is 11, or 10 with another chip's start edge, which it joins, whichever row shows that edge. Class and statuses are fixed,
the four flags cleared, the start recorded. Where one of these is missing no frame starts: a controller that receives goes on as a
receiver (R53), the count going on without an edge, an edge below 10 restarting it and one at 10 or more beginning the reception of
another chip's frame, and in STOPPED and FAULT nothing changes. (That FRAME_START then stands for the line alone, and that a start at 11
comes by it alone, is the model's choice and reading, logs 3 and 12.) -/
def Obligations.FrameStartFixesTheFrame : Prop :=
  ∀ (gap idle : Nat) (edge : Bool) (bits : List Bool) (s : State), s.bus.framer = .gap idle →
    let offered := 11 ≤ idle + gap ∨ (edge = true ∧ 10 ≤ idle + gap)
    let waiting := s.sender.lossDue = true ∨ s.sender.withdrawDue = true ∨ s.sender.returnDue = true ∨
      s.sender.beaconDue = true
    let permitted := s.sender.history.length < s.start.settings.txLimit ∨
      ∃ oldest later, s.sender.history = oldest :: later ∧ oldest + 10 * s.start.settings.txWindow ≤ s.clock.now
    let cls : FrameClass := if s.view.draining = true then .withdraw else if s.sender.lossDue = true then .loss
      else if s.sender.withdrawDue = true then .withdraw else if s.sender.returnDue = true then .return else .beacon
    let held := if s.sender.history.length < s.start.settings.txLimit then s.sender.history else s.sender.history.tail
    let started : State := { s with
      bus := { s.bus with framer := .sending cls (Vector.ofFn fun p => s.reported p) 0 }
      sender := { s.sender with
        lossDue := false
        withdrawDue := false
        returnDue := false
        beaconDue := false
        history := held ++ [s.clock.now] } }
    let may := waiting ∧ permitted ∧ s.bus.ctl = .open ∧ s.start.phase = .serve
    (s.mayStart = true ↔ may) ∧
    (offered → may → exec (.frameStart gap edge) s = .next started) ∧
    (10 ≤ idle + gap → may → exec (.frameReceived gap bits) s = .next (started.takeBits bits)) ∧
    (10 ≤ idle → may → s.takeBits (false :: bits) = started.takeBits bits) ∧
    (¬ (offered ∧ may) →
      exec (.frameStart gap edge) s = .next (if s.bus.ctl.receives = true then { s with bus := { s.bus with
          framer := if edge = true then (if idle + gap < 10 then .gap 0 else .receiving false []) else .gap (idle + gap) } }
        else s))

/-- R52, R54, R59, R60, R62, R80: a frame of this chip, of whose bits after the start bit `sent` have been read back. Bits that agree move
that progress on. At the first that differs the line is released and the frame received to its end with the bits taken so far: a 1 of the
arbitration field read as 0 is lost arbitration, anything else an abort, which in the sync field is a sync mismatch and at the last bit
the frame's end, uncounted. The one counter rises; the class is handed back as a due flag; an abort raises the abort run, and the 16th
mutes the controller for 8 ms with a MUTED record and the run cleared. ARBITRATION_LOST and ABORT give the difference at the first bit
at which there can be one of their kind, ABORT before any bit read back at the start bit itself (the model's choice, log 12);
ARBITRATION_LOST where no 1 is left in the field changes nothing (log 3). -/
def Obligations.LostAndAbortedFramesAreHandedBack : Prop :=
  ∀ (cls : FrameClass) (st : Statuses) (sent : Nat) (s : State), s.bus.framer = .sending cls st sent → sent < 48 →
    let own := lineBits cls s.start.cardId st
    let canLose := fun n : Nat => 8 ≤ n ∧ n < 14 ∧ own[n]? = some true
    let sender := match cls with
      | .loss => { s.sender with lossDue := true }
      | .return => { s.sender with returnDue := true }
      | .beacon => { s.sender with beaconDue := true }
      | .withdraw => if s.view.draining = true then { s.sender with withdrawDue := true }
          else { s.sender with beaconDue := true }
    let lost := fun taken : List Bool => { s with
      bus := { s.bus with framer := .receiving false taken, arbLost := satInc s.bus.arbLost }
      sender := sender }
    let aborted := fun framer : Framer => if s.bus.abortRun + 1 < 16 then { s with
        bus := { s.bus with framer := framer, aborts := satInc s.bus.aborts, abortRun := s.bus.abortRun + 1 }
        sender := sender }
      else { s with
        bus := { s.bus with ctl := .muted (s.clock.now + 8000), framer := framer, aborts := satInc s.bus.aborts, abortRun := 0 }
        sender := sender
        journal := s.journal.append ⟨.muted, s.clock.timeBase⟩ }
    let abortedAt := fun (n : Nat) (x : Bool) =>
      aborted (if n < 8 ∨ n = 47 then .gap 0 else .receiving true (own.take n ++ [!x]))
    (∀ n, sent ≤ n → canLose n → (∀ m, sent ≤ m → m < n → ¬ canLose m) →
      exec .arbitrationLost s = .next (lost (own.take n ++ [false]))) ∧
    ((∀ n, sent ≤ n → ¬ canLose n) → exec .arbitrationLost s = .next s) ∧
    (sent = 0 → exec .abort s = .next (aborted (.receiving true []))) ∧
    (0 < sent → ∀ n x, sent ≤ n → own[n]? = some x → ¬ canLose n → (∀ m, sent ≤ m → m < n → canLose m) →
      exec .abort s = .next (abortedAt n x)) ∧
    (s.bus.ctl.receives = true → ∀ gap : Nat,
      (∀ m, sent + m < 48 → exec (.frameReceived gap ((own.drop sent).take m)) s =
        .next { s with bus := { s.bus with framer := .sending cls st (sent + m) } }) ∧
      ∀ n x rest, sent ≤ n → own[n]? = some x →
        exec (.frameReceived gap ((own.drop sent).take (n - sent) ++ (!x) :: rest)) s =
          .next (State.takeBits rest (if canLose n then lost (own.take n ++ [false]) else abortedAt n x)))

/-- R61, R81: a completed frame counts as sent, clears the abort run, restarts the beacon timer with a full interval, and clears the
rejoin mark unless its class is WITHDRAW; no flag is changed, and the frame is handed to no one, whether the row says so or its last bits
are read back as sent (log 12). R63, R73: the mute timer runs out: the
controller is OPEN and beacon-due is raised. The beacon timer runs out: beacon-due is raised and the timer restarts with a full
interval. That time comes up to either expiry is the model's choice (log 2). -/
def Obligations.CompletionAndTimersOfTheSendingSide : Prop :=
  (∀ (out : Nat) (s : State), s.bus.ctl = .muted out →
    exec .muteTimerExpiry s = .next { s with
      clock := (s.advanceTo out).clock
      bus := { s.bus with ctl := .open }
      sender := { s.sender with beaconDue := true } }) ∧
  (∀ (out : Nat) (s : State), s.sender.beaconTimer = some out →
    exec .beaconTimerExpiry s = .next { s with
      clock := (s.advanceTo out).clock
      sender := { s.sender with
        beaconDue := true
        beaconTimer := some (max s.clock.now out + 1000 * s.start.settings.beaconInterval) } }) ∧
  ∀ (cls : FrameClass) (st : Statuses) (sent : Nat) (s : State), s.bus.framer = .sending cls st sent →
    let t : State := { s with
      bus := { s.bus with
        framer := .gap 0
        framesSent := if s.bus.framesSent = 65535#16 then 65535#16 else s.bus.framesSent + 1#16
        abortRun := 0 }
      sender := { s.sender with
        beaconTimer := some (s.clock.now + 1000 * s.start.settings.beaconInterval)
        rejoin := if cls = .withdraw then s.sender.rejoin else false } }
    exec .frameComplete s = .next t ∧
    (sent < 48 → s.bus.ctl.receives = true → ∀ (gap : Nat) (rest : List Bool),
      exec (.frameReceived gap ((lineBits cls s.start.cardId st).drop sent ++ rest)) s = .next (t.takeBits rest))

/-- R44, R46, R52, R58, R62, R64 to R66, R69: every step keeps the law of the Notice Bus Controller. -/
def Obligations.BusLawIsKept : Prop :=
  ∀ s t : State, s.ResetLaw → s.BusLaw → step s = .next t → t.BusLaw

/-- R74, R77, R155: every step keeps the law of the sending side. -/
def Obligations.SenderLawIsKept : Prop :=
  ∀ s t : State, s.ResetLaw → s.SenderLaw → step s = .next t → t.SenderLaw

/-! ### Protection groups -/

/-- R96: the quotas of a set add up to exactly 64; each is the base or one more; as many members as there are slots left over have the one
more, those with the largest remainders, and of equal remainders those with the lower index. -/
def Obligations.QuotasShareSixtyFourSlots : Prop :=
  ∀ (w : MemberIdx → Nat) (set : List MemberIdx), set ≠ [] → set.Nodup → (∀ i ∈ set, 1 ≤ w i) →
    let total := (set.map w).sum
    let base := fun i => 64 * w i / total
    let rem := fun i => 64 * w i % total
    (set.map (quota w set)).sum = 64 ∧
    (∀ i ∈ set, quota w set i = base i ∨ quota w set i = base i + 1) ∧
    (set.filter fun i => decide (quota w set i = base i + 1)).length + (set.map base).sum = 64 ∧
    ∀ i ∈ set, ∀ j ∈ set, quota w set i = base i + 1 → quota w set j = base j →
      rem j < rem i ∨ (rem j = rem i ∧ i < j)

/-- R98: home fill gives every slot to a member of the set and every member its quota, and deals in rounds of ascending index: after any
number of slots, a member that still has quota left is at most one slot behind every other member, and not behind any of a higher
index. -/
def Obligations.HomeFillDealsTheQuotasInRounds : Prop :=
  ∀ (w : MemberIdx → Nat) (set : List MemberIdx), set ≠ [] → set.Pairwise (· < ·) → (∀ i ∈ set, 1 ≤ w i) →
    (∀ k : Slot, ∃ i ∈ set, (homeFill w set)[k] = .member i) ∧
    (∀ i ∈ set, (homeFill w set).toList.count (.member i) = quota w set i) ∧
    ∀ n ≤ 64, ∀ i ∈ set, ∀ j ∈ set,
      ((homeFill w set).toList.take n).count (.member i) < quota w set i →
      ((homeFill w set).toList.take n).count (.member j) ≤ ((homeFill w set).toList.take n).count (.member i) + 1 ∧
      (i < j → ((homeFill w set).toList.take n).count (.member j) ≤ ((homeFill w set).toList.take n).count (.member i))

/-- R99: from any old spread, requota gives every slot to a member of the new set and every member its quota; a slot held by a member of the
new set, with fewer lower slots of that member than its new quota, is not moved; and a spread that already gives every member of the
set its quota is left as it is. Every other slot, in ascending order, goes to the member with the largest shortfall at that moment,
the lowest index among equals (step 5; the set taken in ascending index). R100, second paragraph: where members are only removed from a set, no member that remains has a new quota
more than one below its old one. -/
def Obligations.RequotaKeepsWhatFitsTheQuotas : Prop :=
  (∀ (w : MemberIdx → Nat) (set left : List MemberIdx), left.Sublist set → set.Nodup → (∀ i ∈ set, 1 ≤ w i) →
    ∀ i ∈ left, quota w set i ≤ quota w left i + 1) ∧
  ∀ (w : MemberIdx → Nat) (set : List MemberIdx) (old : Spread),
    set ≠ [] → set.Nodup → (∀ i ∈ set, 1 ≤ w i) →
    (∀ k : Slot, ∃ i ∈ set, (requota w set old)[k] = .member i) ∧
    (∀ i ∈ set, (requota w set old).toList.count (.member i) = quota w set i) ∧
    (∀ (k : Slot) (i : MemberIdx), i ∈ set → old[k] = .member i →
      (old.toList.take k.val).count (.member i) < quota w set i → (requota w set old)[k] = .member i) ∧
    ((∀ i ∈ set, old.toList.count (.member i) = quota w set i) → requota w set old = old) ∧
    let new := requota w set old
    let kept := fun k : Slot => set.any fun i =>
      old[k] == .member i && decide ((old.toList.take k.val).count (.member i) < quota w set i)
    let short := fun (k : Slot) (i : MemberIdx) => quota w set i -
      ((List.finRange 64).countP fun l => kept l && old[l] == .member i) -
      ((List.finRange 64).countP fun l => decide (l < k) && !kept l && new[l] == .member i)
    set.Pairwise (· < ·) → ∀ (k : Slot) (i : MemberIdx), kept k = false → new[k] = .member i →
      1 ≤ short k i ∧ ∀ j ∈ set, short k j < short k i ∨ (short k j = short k i ∧ i ≤ j)

/-- R94: the first of the six cases that holds gives mode and set, and the mode the recorded active tier. -/
def Obligations.TierChoiceTakesTheFirstCase : Prop :=
  (Mode.tier0.activeTier = .tier .t0 ∧ Mode.tier0Short.activeTier = .tier .t0 ∧ Mode.tier1.activeTier = .tier .t1 ∧
    Mode.escape.activeTier = .escape ∧ Mode.dark.activeTier = .none) ∧
  ∀ (r : Record) (current : Mode) (adm : Uplink → Bool),
    let a0 := r.admittedOf .t0 adm
    let a1 := r.admittedOf .t1 adm
    let case1 := r.revertive = false ∧ current = .tier1 ∧ a1 ≠ []
    let case2 := r.minLive ≤ a0.length
    let case5 := ∃ e, r.escape = some e ∧ adm e = true
    (case1 → tierChoice r current adm = (.tier1, .members a1)) ∧
    (¬ case1 → case2 → tierChoice r current adm = (.tier0, .members a0)) ∧
    (¬ case1 → ¬ case2 → a1 ≠ [] → tierChoice r current adm = (.tier1, .members a1)) ∧
    (¬ case2 → a1 = [] → a0 ≠ [] → tierChoice r current adm = (.tier0Short, .members a0)) ∧
    (¬ case2 → a1 = [] → a0 = [] → case5 → tierChoice r current adm = (.escape, .escape)) ∧
    (¬ case2 → a1 = [] → a0 = [] → ¬ case5 → tierChoice r current adm = (.dark, .empty)) ∧
    (∀ i, i ∈ a0 ↔ ∃ seat, r.seats[i] = some seat ∧ seat.tier = .t0 ∧ adm seat.uplink = true) ∧
    (∀ i, i ∈ a1 ↔ ∃ seat, r.seats[i] = some seat ∧ seat.tier = .t1 ∧ adm seat.uplink = true) ∧
    a0.Pairwise (· < ·) ∧ a1.Pairwise (· < ·)

/-- R89, R90, R101, R102: every step keeps every record valid, the groups in ascending number and every group's mode, tier, set and spread
together as the table of R90 gives them. -/
def Obligations.GroupLawIsKept : Prop :=
  ∀ s t : State, s.GroupLaw → step s = .next t → t.GroupLaw

/-- R91, R92: every step keeps group g in uplink u's list exactly when g's installed record names u, and every list ascending. -/
def Obligations.MemberListLawIsKept : Prop :=
  ∀ s t : State, s.store.ListLaw → step s = .next t → t.store.ListLaw

/-! ### The Repair Engine -/

/-- R112, R113, R119: the arbiter takes the head of URGENT, else the SWEEP, else the head of BUILD, else the head of CALM; in LISTEN only a
BUILD. A walk begins at its first group above its position with a fresh snapshot, and completes at once where there is none; a BUILD
takes its record from the pool. With the engine BUSY, or nothing that may be taken, nothing changes. The next group of a walk is the lowest
in the list above its position (R114), a snapshot holds exactly the uplinks the record names whose entry is ADMITTED (R93), and a job
that leaves the engine at rest sets the settle deadline (R124). (The model's choices and readings
in this: the take as a command of its own, log 11; the snapshots at the take, logs 10 and 21; a SWEEP over the used groups, log 13;
nothing to take changes nothing, log 3.) -/
def Obligations.ArbiterTakesTheFirstEntry : Prop :=
  (∀ (position : Option GroupNo) (list : List GroupNo), list.Pairwise (· < ·) →
    let above := fun g : GroupNo => ∀ p, position = some p → p < g
    match nextAbove position list with
    | some g => g ∈ list ∧ above g ∧ ∀ h ∈ list, above h → g ≤ h
    | none => ∀ h ∈ list, ¬ above h) ∧
  ∀ s : State,
    (∀ (r : Record) (u : Uplink), u ∈ s.snapshotOf r ↔ s.view.entries[u].state = .admitted ∧
      (r.escape = some u ∨ ∃ (i : MemberIdx) (seat : Seat), r.seats[i] = some seat ∧ seat.uplink = u)) ∧
    (∀ g : GroupNo, s.snapshotFor g = match s.store.find g with
      | some x => s.snapshotOf x.record
      | none => []) ∧
    let complete := fun r : State => { r with engine := { r.engine with
      job := none
      completed := r.engine.completed + 1#16
      episode := if r.engine.worklistLength = 0 then r.engine.episode.map fun e =>
          { e with settle := some (r.clock.now + 1000 * r.start.settings.settleTime) }
        else r.engine.episode } }
    let walk := fun (r : State) (job : Walk → Job) (position : Option GroupNo) (list : List GroupNo) =>
      match nextAbove position list with
      | some g => r.withEngine { r.engine with job := some (job ⟨position, g, s.snapshotFor g⟩) }
      | none => complete r
    (s.engine.job ≠ none → exec .arbiterTake s = .next s) ∧
    (s.isLoading = true → exec .arbiterTake s = .next s) ∧
    (∀ w rest, s.engine.job = none → s.start.phase = .serve → s.engine.urgent = w :: rest →
      exec .arbiterTake s = .next (walk (s.withEngine { s.engine with urgent := rest }) (.urgent w.uplink) w.position
        s.store.memberLists[w.uplink])) ∧
    (∀ e, s.engine.job = none → s.start.phase = .serve → s.engine.urgent = [] → s.engine.sweep = some e →
      exec .arbiterTake s = .next (walk (s.withEngine { s.engine with sweep := none }) .sweep e.position
        (s.store.groups.map fun x => x.number))) ∧
    (∀ g rest kind, s.WorkLaw → s.engine.job = none → s.engine.build = g :: rest → s.store.pendingFor g = some kind →
      ((s.start.phase = .serve ∧ s.engine.urgent = [] ∧ s.engine.sweep = none) ∨ ∃ d, s.start.phase = .listen d) →
      exec .arbiterTake s = .next { s with
        store := { s.store with pool := s.store.pool.filter fun x => x.group != g }
        engine := { s.engine with
          build := rest
          job := some (.build g kind (match kind with
            | .record r => s.snapshotOf r
            | .release => [])) } }) ∧
    (∀ w rest, s.engine.job = none → s.start.phase = .serve → s.engine.urgent = [] → s.engine.sweep = none →
      s.engine.build = [] → s.engine.calm = w :: rest →
      exec .arbiterTake s = .next (walk (s.withEngine { s.engine with calm := rest }) (.calm w.uplink) w.position
        s.store.memberLists[w.uplink])) ∧
    ((s.start.phase = .serve ∧ s.engine.worklistLength = 0) ∨ ((∃ d, s.start.phase = .listen d) ∧ s.engine.build = []) →
      exec .arbiterTake s = .next s)

/-- R93, R101, R115, R116, R123: a reconcile of a walk completes. The group's mode, tier, set and spread are replaced whole, computed from
the snapshot; a drop goes out if a slot changed and a GROUP_MODE record if the mode changed; the slots moved enter the episode. Then,
with no group left, the job completes, and where that leaves the engine at rest the settle deadline is one settle time ahead (R124); a
CALM or SWEEP walk is suspended if an URGENT entry waits; else the walk goes on to the lowest group above, with a snapshot of its own. (The snapshot
as one of two moments is the model's choice, log 10, and that a SWEEP has a group left where a used one is left is log 13.) -/
def Obligations.ReconcileReplacesTheGroupWhole : Prop :=
  (∀ (r : State) (g : GroupNo) (u : Uplink), u ∈ r.snapshotFor g ↔ r.view.entries[u].state = .admitted ∧
    ∃ x, r.store.find g = some x ∧ (x.record.escape = some u ∨
      ∃ (i : MemberIdx) (seat : Seat), x.record.seats[i] = some seat ∧ seat.uplink = u)) ∧
  ∀ (time : SnapshotTime) (job : Job) (w : Walk) (x : Group) (s : State),
    s.engine.job = some job → job.walk? = some w → s.store.find w.group = some x →
    let snapshot := match time with
      | .early => w.snapshot
      | .late => s.snapshotFor w.group
    let choice := tierChoice x.record x.mode fun u => snapshot.contains u
    let weight := fun i : MemberIdx => match x.record.seats[i] with
      | some seat => seat.weight
      | none => 0
    let y : Group := { x with
      mode := choice.1
      tier := choice.1.activeTier
      set := choice.2
      spread := match choice.2 with
        | .members m => if x.tier = choice.1.activeTier then requota weight m x.spread
            else homeFill weight m
        | .escape => Vector.replicate 64 .escape
        | .empty => Vector.replicate 64 .empty }
    let moved := (List.finRange 64).countP fun k => decide (x.spread[k] ≠ y.spread[k])
    let position := some w.group
    let suspendable : Bool := match job with
      | .calm _ _ => true
      | .sweep _ => true
      | _ => false
    let list : List Group → List GroupNo := fun groups => match job with
      | .urgent u _ => s.store.memberLists[u]
      | .calm u _ => s.store.memberLists[u]
      | _ => groups.map fun z : Group => z.number
    ∃ t, exec (.reconcile time) s = .next t ∧
      t.store.find w.group = some y ∧ (∀ g, g ≠ w.group → t.store.find g = s.store.find g) ∧
      t.store.memberLists = s.store.memberLists ∧ t.store.pool = s.store.pool ∧
      t.lookup = { s.lookup with
        dropGroups := if moved = 0 then s.lookup.dropGroups else insertAsc w.group s.lookup.dropGroups } ∧
      t.journal = (if x.mode = y.mode then s.journal
        else s.journal.append ⟨.groupMode w.group y.mode, s.clock.timeBase⟩) ∧
      (∀ e, s.engine.episode = some e → ∃ e', t.engine.episode = some e' ∧ e'.openedAt = e.openedAt ∧
        e'.viewChanges = e.viewChanges ∧ e'.slotsMoved = min (e.slotsMoved + moved) 65535 ∧
        e'.groups = (if moved = 0 then e.groups else insertAsc w.group e.groups) ∧
        e'.settle = (if t.engine.job = none ∧ t.engine.worklistLength = 0
          then some (s.clock.now + 1000 * s.start.settings.settleTime) else e.settle) ∧
        (s.EpisodeLaw → t.engine.job ≠ none ∨ t.engine.worklistLength ≠ 0 → e'.settle = none)) ∧
      (s.engine.episode = none → t.engine.episode = none) ∧ t.engine.discarded = s.engine.discarded ∧
      t.engine.urgent = s.engine.urgent ∧ t.engine.build = s.engine.build ∧
      (match (list t.store.groups).find? fun g => decide (w.group < g) with
        | none => t.engine.job = none ∧ t.engine.completed = s.engine.completed + 1#16 ∧
            t.engine.calm = s.engine.calm ∧ t.engine.sweep = s.engine.sweep
        | some g =>
          t.engine.completed = s.engine.completed ∧
          if suspendable = true ∧ s.engine.urgent ≠ [] then
            t.engine.job = none ∧
            (match job with
              | .calm u _ => t.engine.sweep = s.engine.sweep ∧
                  t.engine.calm = if waitingIn s.engine.urgent u || waitingIn s.engine.calm u then s.engine.calm
                    else ⟨u, position⟩ :: s.engine.calm
              | _ => t.engine.calm = s.engine.calm ∧ t.engine.sweep = some ⟨position⟩)
          else t.engine.calm = s.engine.calm ∧ t.engine.sweep = s.engine.sweep ∧
            t.engine.job = some (match job with
              | .urgent u _ => .urgent u ⟨position, g, t.snapshotFor g⟩
              | .calm u _ => .calm u ⟨position, g, t.snapshotFor g⟩
              | .sweep _ => .sweep ⟨position, g, t.snapshotFor g⟩
              | .build n kind snapshot => .build n kind snapshot)) ∧
      t.pins = s.pins ∧ t.clock = s.clock ∧ t.start = s.start ∧ t.monitors = s.monitors ∧ t.view = s.view ∧ t.bus = s.bus ∧
      t.sender = s.sender ∧ t.port = s.port ∧ t.model = s.model ∧ t.pending = s.pending

/-- R102, R103, R119, R92: an installation. From a pending record, the group takes it as its record, chooses its tier over it with the mode
it had, and is filled afresh, never by requota; from a release it is UNUSED. The member lists change with it. A drop goes out if a
slot changed, a GROUP_MODE record if the mode changed, and the job completes; where that leaves the engine at rest the settle deadline is
one settle time ahead (R124). -/
def Obligations.InstallationReplacesRecordAndLists : Prop :=
  ∀ (g : GroupNo) (kind : PendingKind) (snapshot : List Uplink) (s : State),
    s.engine.job = some (.build g kind snapshot) → s.store.ListLaw →
    let oldMode := match s.store.find g with
      | some x => x.mode
      | none => .unused
    let oldSpread : Spread := match s.store.find g with
      | some x => x.spread
      | none => Vector.replicate 64 .empty
    let new : Option Group := match kind with
      | .release => none
      | .record r =>
        let choice := tierChoice r oldMode fun u => snapshot.contains u
        some { number := g, record := r, mode := choice.1, tier := choice.1.activeTier, set := choice.2
               spread := match choice.2 with
                | .members m => homeFill (fun i => match r.seats[i] with
                    | some seat => seat.weight
                    | none => 0) m
                | .escape => Vector.replicate 64 .escape
                | .empty => Vector.replicate 64 .empty }
    let newSpread := (new.map fun x => x.spread).getD (Vector.replicate 64 .empty)
    let moved := (List.finRange 64).countP fun k : Slot => decide (oldSpread[k] ≠ newSpread[k])
    let newMode := (new.map fun x => x.mode).getD .unused
    ∃ t, exec .installation s = .next t ∧
      t.store.find g = new ∧ (∀ h, h ≠ g → t.store.find h = s.store.find h) ∧ t.store.pool = s.store.pool ∧
      (∀ (u : Uplink) (h : GroupNo), h ∈ t.store.memberLists[u] ↔
        if h = g then (match kind with | .record r => r.names u = true | .release => False)
        else h ∈ s.store.memberLists[u]) ∧
      t.lookup = { s.lookup with
        dropGroups := if moved = 0 then s.lookup.dropGroups
          else insertAsc g s.lookup.dropGroups } ∧
      t.journal = (if oldMode = newMode then s.journal
        else s.journal.append ⟨.groupMode g newMode, s.clock.timeBase⟩) ∧
      (∀ e, s.engine.episode = some e → ∃ e', t.engine.episode = some e' ∧ e'.openedAt = e.openedAt ∧
        e'.viewChanges = e.viewChanges ∧ e'.slotsMoved = min (e.slotsMoved + moved) 65535 ∧
        e'.groups = (if moved = 0 then e.groups else insertAsc g e.groups) ∧
        e'.settle = (if s.engine.worklistLength = 0
          then some (s.clock.now + 1000 * s.start.settings.settleTime) else e.settle) ∧
        (s.EpisodeLaw → s.engine.worklistLength ≠ 0 → e'.settle = none)) ∧
      (s.engine.episode = none → t.engine.episode = none) ∧ t.engine.discarded = s.engine.discarded ∧
      t.engine.job = none ∧ t.engine.completed = s.engine.completed + 1#16 ∧ t.engine.urgent = s.engine.urgent ∧
      t.engine.calm = s.engine.calm ∧ t.engine.build = s.engine.build ∧ t.engine.sweep = s.engine.sweep ∧
      t.pins = s.pins ∧ t.clock = s.clock ∧ t.start = s.start ∧ t.monitors = s.monitors ∧ t.view = s.view ∧ t.bus = s.bus ∧
      t.sender = s.sender ∧ t.port = s.port ∧ t.model = s.model ∧ t.pending = s.pending

/-- R107, R110, R148: every step keeps one entry for an uplink, one BUILD entry for a group, BUILD entries exactly for the groups in the
pool, and at most 16 of these; and the worklist then holds at most 145 entries. -/
def Obligations.WorkLawIsKept : Prop :=
  (∀ s t : State, s.WorkLaw → step s = .next t → t.WorkLaw) ∧
    ∀ s : State, s.engine.worklistLength = s.engine.urgent.length + s.engine.calm.length + s.engine.build.length +
        (if s.engine.sweep = none then 0 else 1) ∧
      (s.WorkLaw → s.engine.worklistLength ≤ 145)

/-- R122 to R124, R161: every step keeps the episode law. -/
def Obligations.EpisodeLawIsKept : Prop :=
  ∀ s t : State, s.EpisodeLaw → step s = .next t → t.EpisodeLaw

/-- R124, R161: the settle deadline of an open episode with the engine at rest. EPISODE_END with the four counts is the newest record, the
episode is closed, and every record held back is committed. (That time comes up to the deadline, and the duration as a difference of
the model's clock, are the model's choices, logs 2 and 23.) -/
def Obligations.SettleDeadlineClosesTheEpisode : Prop :=
  ∀ (e : Episode) (deadline : Nat) (s : State), s.engine.episode = some e → e.settle = some deadline →
    s.engine.atRest = true →
    ∃ t, exec .settleDeadline s = .next t ∧
      t.journal = { ((s.advanceTo deadline).append (.episodeEnd (min e.groups.length 65535) (min e.slotsMoved 65535)
        (min e.viewChanges 65535) (min ((max s.clock.now deadline - e.openedAt) / 10) 65535))).journal.commitAll with
          episodeOpen := false } ∧
      t.journal.heldBack = [] ∧ t.alertAsserted = true ∧
      t = { s with
        clock := (s.advanceTo deadline).clock
        engine := { s.engine with episode := none }
        journal := t.journal }

/-! ### The Lookup Unit -/

/-- R127, R128: a request offered in SERVE with fewer than 16 outstanding joins the queue at its tail with its tag, group and hash; offered
otherwise it is not taken and nothing changes. -/
def Obligations.LookupRequestJoinsTheQueue : Prop :=
  ∀ (tag : BitVec 8) (group : BitVec 10) (hash : BitVec 16) (s : State),
    (s.start.phase = .serve → s.lookup.queue.length < 16 →
      exec (.lookupRequest (tag ++ group ++ hash)) s =
        .next { s with lookup := { s.lookup with queue := s.lookup.queue ++ [⟨tag, group.toFin, hash⟩] } }) ∧
    (¬ (s.start.phase = .serve ∧ s.lookup.queue.length < 16) →
      exec (.lookupRequest (tag ++ group ++ hash)) s = .next s)

/-- R129, R130, R133, R138: an ANSWER, where no drop comes before it. The head request leaves the queue and is answered: NO_ROUTE for an
UNUSED group, NORMAL or ESCAPE from its slot while that uplink is ADMITTED, else by the patch rule; the class's counter rises and
nothing else changes. R178, section 12.3: the 24-bit word of an ANSWER has kind 0, the tag, the class code, and the tier and uplink
where the class has them, else 0. -/
def Obligations.AnswerIsComputedAtEmission : Prop :=
  (∀ (tag : BitVec 8) (u : Uplink),
    let word := fun (code tier uplink : Nat) => 2 ^ 14 * tag.toNat + 2 ^ 11 * code + 2 ^ 10 * tier + uplink
    (Message.answer tag (.normal u .t0)).word.toNat = word 0 0 u.val ∧
    (Message.answer tag (.normal u .t1)).word.toNat = word 0 1 u.val ∧
    (Message.answer tag (.patched u .t0)).word.toNat = word 1 0 u.val ∧
    (Message.answer tag (.patched u .t1)).word.toNat = word 1 1 u.val ∧
    (Message.answer tag (.escape u)).word.toNat = word 2 0 u.val ∧
    (Message.answer tag .discard).word.toNat = word 3 0 0 ∧
    (Message.answer tag .noRoute).word.toNat = word 4 0 0) ∧
  ∀ (q : Request) (rest : List Request) (s : State),
    s.start.phase = .serve → s.lookup.dropAll = false → s.lookup.dropUplinks = [] → s.lookup.queue = q :: rest →
    (s.lookup.dropGroups = [] ∨ s.lookup.lastKind = .dropGroup) →
    let slot : Slot := ⟨q.hash.toNat / 1024, by have := q.hash.isLt; omega⟩
    let emit := fun (a : Answer) (l : Lookup) => exec .answer s = .next { s with lookup := { l with
      queue := rest, lastKind := .answer, emitted := some (.answer q.tag a) } }
    (s.store.find q.group = none →
      emit .noRoute { s.lookup with noRoute := satInc s.lookup.noRoute }) ∧
    (∀ x i seat, s.store.find q.group = some x → x.spread[slot] = .member i → x.record.seats[i] = some seat →
      s.isAdmitted seat.uplink = true → emit (.normal seat.uplink seat.tier) s.lookup) ∧
    (∀ x e, s.store.find q.group = some x → x.spread[slot] = .escape → x.record.escape = some e →
      s.isAdmitted e = true → emit (.escape e) s.lookup) ∧
    (∀ x, s.store.find q.group = some x →
      (x.spread[slot] = .empty ∨
        (∃ i, x.spread[slot] = .member i ∧ ∀ seat, x.record.seats[i] = some seat → s.isAdmitted seat.uplink = false) ∨
        (x.spread[slot] = .escape ∧ ∀ e, x.record.escape = some e → s.isAdmitted e = false)) →
      let a := patchAnswer x.record x.tier s.isAdmitted q.hash
      emit a (if a = .discard then { s.lookup with discarded := satInc s.lookup.discarded }
        else { s.lookup with patched := satInc s.lookup.patched }))

/-- R131: the patch rule takes candidate h mod n of the first level that has one: the admitted members of the active tier (tier 0 for
escape and none), those of the other tier, the escape; with none, DISCARD. -/
def Obligations.PatchRuleTriesThreeLevels : Prop :=
  ∀ (r : Record) (tier : ActiveTier) (adm : Uplink → Bool) (h : BitVec 16),
    let level := fun t : Tier => (List.finRange 8).filterMap fun i =>
      match r.seats[i] with
      | some seat => if seat.tier = t ∧ adm seat.uplink = true then some seat.uplink else none
      | none => none
    let first := match tier with
      | .tier t => t
      | .escape => Tier.t0
      | .none => Tier.t0
    (∀ hn : 0 < (level first).length, patchAnswer r tier adm h =
      .patched ((level first)[h.toNat % (level first).length]'(Nat.mod_lt _ hn)) first) ∧
    (level first = [] → ∀ hn : 0 < (level first.other).length, patchAnswer r tier adm h =
      .patched ((level first.other)[h.toNat % (level first.other).length]'(Nat.mod_lt _ hn)) first.other) ∧
    (level first = [] → level first.other = [] → ∀ e, r.escape = some e → adm e = true →
      patchAnswer r tier adm h = .escape e) ∧
    (level first = [] → level first.other = [] → (∀ e, r.escape = some e → adm e = false) →
      patchAnswer r tier adm h = .discard)

/-- R132: no ANSWER names an uplink whose entry is not ADMITTED at its emission. -/
def Obligations.NoAnswerNamesAnUplinkOutOfService : Prop :=
  ∀ (s t : State) (tag : BitVec 8) (a : Answer) (u : Uplink), exec .answer s = .next t → t ≠ s →
    t.lookup.emitted = some (.answer tag a) → a.uplink = some u → s.isAdmitted u = true

/-- R134 to R138: the drops. With the drop-all flag set, DROP_ALL clears it and empties both sets; else the lowest uplink of the set is
dropped; else, where no request waits or an ANSWER was emitted last, the lowest group. Each is emitted and leaves its set, and
nothing else changes but the alternation mark at a DROP_GROUP. R178, section 12.3: the 24-bit words of the drops; the valid line is high
exactly while the channel has something to offer, and what a take emits is what was offered at it. -/
def Obligations.DropsLeaveTheirSets : Prop :=
  (∀ (u : Uplink) (g : GroupNo), (Message.dropUplink u).word.toNat = 2 ^ 22 + u.val ∧
    (Message.dropGroup g).word.toNat = 2 * 2 ^ 22 + g.val ∧ Message.dropAll.word.toNat = 3 * 2 ^ 22) ∧
  (∀ s : State, s.answerValid = true ↔ s.start.phase = .serve ∧ (s.lookup.dropAll = true ∨ s.lookup.dropUplinks ≠ [] ∨
    s.lookup.queue ≠ [] ∨ s.lookup.dropGroups ≠ [])) ∧
  (∀ (s : State) (m : Message), s.offered = some m →
    ∃ t, exec (match m with
        | .answer _ _ => .answer
        | .dropUplink _ => .dropUplink
        | .dropGroup _ => .dropGroup
        | .dropAll => .dropAll) s = .next t ∧ t.lookup.emitted = some m) ∧
  ∀ s : State, s.start.phase = .serve →
    (s.lookup.dropAll = true → exec .dropAll s = .next { s with lookup := { s.lookup with
      dropAll := false, dropUplinks := [], dropGroups := [], emitted := some .dropAll } }) ∧
    (∀ u rest, s.LookupLaw → s.lookup.dropAll = false → s.lookup.dropUplinks = u :: rest →
      (∀ v ∈ rest, u < v) ∧
      exec .dropUplink s = .next { s with lookup := { s.lookup with
        dropUplinks := rest, emitted := some (.dropUplink u) } }) ∧
    ∀ g rest, s.LookupLaw → s.lookup.dropAll = false → s.lookup.dropUplinks = [] → s.lookup.dropGroups = g :: rest →
      (s.lookup.queue = [] ∨ s.lookup.lastKind = .answer) →
      (∀ h ∈ rest, g < h) ∧
      exec .dropGroup s = .next { s with lookup := { s.lookup with
        dropGroups := rest, lastKind := .dropGroup, emitted := some (.dropGroup g) } }

/-- R128, R134, R135, R139: every step keeps the law of the lookup port. -/
def Obligations.LookupLawIsKept : Prop :=
  ∀ s t : State, s.ResetLaw → s.LookupLaw → step s = .next t → t.LookupLaw

/-! ### The table port -/

/-- R145 to R147: the staging commands, answered OK from the end of loading. STAGE_CLEAR sets the reset values; STAGE_MEMBER fills its place,
or empties it for a weight of 0; STAGE_OPTIONS sets min-live, escape and revertive flag together, the bits in no field being ignored.
Nothing else changes. -/
def Obligations.StagingCommandsSetTheStagingRecord : Prop :=
  ∀ s : State, s.TakesCommand → s.isLoading = false →
    let ok := fun r : Record => { s with port := { s.port with staging := r, transaction := .taken, response := [0x00#8] } }
    exec .stageClear s = .next (ok ⟨Vector.replicate 8 none, 1, none, true⟩) ∧
    (∀ (place : MemberIdx) (weight : BitVec 5) (tier : Tier) (u : Uplink),
      exec (.stageMember (BitVec.ofFin (w := 3) place ++ weight) (BitVec.ofBool (tier == .t1) ++ BitVec.ofFin (w := 7) u)) s =
        .next (ok { s.port.staging with
          seats := setAt s.port.staging.seats place
            (if weight.toNat = 0 then none else some ⟨u, tier, weight.toNat⟩) })) ∧
    ∀ (nonRevertive present : Bool) (ignored : BitVec 3) (minLive : BitVec 4) (u : Uplink),
      exec (.stageOptions (BitVec.ofBool nonRevertive ++ ignored ++ minLive)
          (BitVec.ofBool present ++ BitVec.ofFin (w := 7) u)) s =
        .next (ok { s.port.staging with
          minLive := minLive.toNat, escape := if present = true then some u else none, revertive := !nonRevertive })

/-- R149, R150, R110, R122: COMMIT and RELEASE. The first check that fails refuses with its status and changes nothing; else the pending
record or release replaces the one held for the group, whose BUILD entry keeps its place, or takes a free place with a BUILD entry at
the tail, which opens an episode where the engine is at rest with none open and ends the settling of an open one. The staging record is not changed. -/
def Obligations.CommitAndReleaseFillThePool : Prop :=
  ∀ (g : GroupNo) (ignored : BitVec 6) (release : Bool) (s : State), s.TakesCommand → s.isLoading = false →
    let b0 := (ignored ++ BitVec.ofFin (w := 10) g).extractLsb' 8 8
    let b1 := (ignored ++ BitVec.ofFin (w := 10) g).extractLsb' 0 8
    let c := if release = true then Instr.release b0 b1 else Instr.commit b0 b1
    let kind := if release = true then PendingKind.release else .record s.port.staging
    let r := s.port.staging
    let badWeight := ∃ m ∈ r.members, ¬ (1 ≤ m.2.weight ∧ m.2.weight ≤ 16)
    let full := s.store.pendingFlag g = false ∧ 16 ≤ s.store.pool.length
    (release = false → r.tier0Count = 0 → exec c s = .next (s.responding [0x10#8])) ∧
    (release = false → r.tier0Count ≠ 0 → ¬ r.named.Nodup → exec c s = .next (s.responding [0x11#8])) ∧
    (release = false → r.tier0Count ≠ 0 → r.named.Nodup → badWeight → exec c s = .next (s.responding [0x12#8])) ∧
    (release = false → r.tier0Count ≠ 0 → r.named.Nodup → ¬ badWeight → (r.minLive = 0 ∨ r.tier0Count < r.minLive) →
      exec c s = .next (s.responding [0x13#8])) ∧
    ((release = false → r.Valid) → full → exec c s = .next (s.responding [0x14#8])) ∧
    ((release = false → r.Valid) → s.store.pendingFlag g = true →
      exec c s = .next (State.responding [0x00#8] { s with store := { s.store with
        pool := s.store.pool.map fun x => if x.group = g then ⟨g, kind⟩ else x } })) ∧
    ((release = false → r.Valid) → s.store.pendingFlag g = false → s.store.pool.length < 16 →
      ∃ t, exec c s = .next t ∧
        t = State.responding [0x00#8] { s with
          store := { s.store with pool := s.store.pool ++ [⟨g, kind⟩] }
          engine := { s.engine with build := s.engine.build ++ [g], episode := t.engine.episode }
          journal := { s.journal with episodeOpen := t.journal.episodeOpen } } ∧
        (s.EpisodeLaw → t.journal.episodeOpen = true ∧ t.engine.episode = match s.engine.episode with
          | none => some ⟨s.clock.now, [], 0, 0, none⟩
          | some e => some { e with settle := none }))

/-- R104, R151, R152, R154, sections 12.1 and 12.4: STATUS, READ_GROUP, READ_SPREAD, READ_VIEW and READ_CARDS answer OK with 6, 30, 64, 28
and 8 bytes and change no state of the part (that they count the free bytes used for what their layouts leave open is the model's own,
logs 15 and 16); STATUS in every phase, and the others from the end of loading. Every field of the responses has the code value of
section 12.1, at its place; what is left open is the existentially given spare bits and free bytes. The slot counts of READ_GROUP are
the quotas over the recorded active set and 0 for the other members, 64 for the escape in ESCAPE, and 0 in DARK. -/
def Obligations.ReadsChangeNothing : Prop :=
  let presence : Presence → Nat := fun
    | .self => 0
    | .unheard => 1
    | .present _ => 2
    | .withdrawn _ => 3
    | .absent => 4
  let occupant : Occupant → Byte := fun
    | .member i => BitVec.ofNat 8 i.val
    | .escape => 8#8
    | .empty => 15#8
  let two := fun n : Nat => [BitVec.ofNat 8 (n / 256), BitVec.ofNat 8 n]
  (∀ s : State, ∃ spare < 2,
    let ctl := match s.bus.ctl with | .stopped => 0 | .open => 1 | .muted _ => 2 | .fault => 3 | .clashed => 4
    let phase := match s.start.phase with | .loading _ => 0 | .listen _ => 1 | .serve => 2
    s.statusBytes = [BitVec.ofNat 8 (128 * spare + 16 * ctl + 8 * s.view.draining.toNat +
        4 * (if s.engine.job = none then 0 else 1) + phase), BitVec.ofNat 8 s.engine.worklistLength] ++
      two s.engine.completed.toNat ++ two s.journal.lost.toNat) ∧
  (∀ (s : State) (g : GroupNo), s.store.find g = none →
    s.groupBytes g = [0#8, 3#8, 0#8, if s.store.pendingFlag g = true then 2#8 else 0#8] ++ List.replicate 26 0#8 ∧
    s.spreadBytes g = List.replicate 64 15#8) ∧
  (∀ (s : State) (x : Group), s.GroupLaw → x ∈ s.store.groups →
    (∃ (spare : Nat) (open0 : Nat) (free : MemberIdx → Byte), spare < 2 ∧ open0 < 128 ∧
      (s.groupBytes x.number).take 21 = [
        match x.mode with | .unused => 0#8 | .tier0 => 1#8 | .tier0Short => 2#8 | .tier1 => 3#8 | .escape => 4#8 | .dark => 5#8,
        match x.tier with | .tier .t0 => 0#8 | .tier .t1 => 1#8 | .escape => 2#8 | .none => 3#8,
        match x.set with
          | .members m => BitVec.ofNat 8 ((List.finRange 8).map fun i => if i ∈ m then 2 ^ i.val else 0).sum
          | .escape => 0#8
          | .empty => 0#8,
        BitVec.ofNat 8 (16 * x.record.minLive + 8 * spare + 4 * (!x.record.revertive).toNat +
          2 * (s.store.pendingFlag x.number).toNat + (if x.set = .escape then 1 else 0)),
        match x.record.escape with
          | some e => BitVec.ofNat 8 (128 + e.val)
          | none => BitVec.ofNat 8 open0] ++
        (List.finRange 8).flatMap fun i => match x.record.seats[i] with
          | some m => [BitVec.ofNat 8 (32 * i.val + m.weight), BitVec.ofNat 8 (128 * (if m.tier = .t1 then 1 else 0) + m.uplink.val)]
          | none => [BitVec.ofNat 8 (32 * i.val), free i]) ∧
    (s.groupBytes x.number).drop 21 = (match x.set with
      | .members m => ((List.finRange 8).map fun i =>
          BitVec.ofNat 8 (if i ∈ m then quota x.record.weight m i else 0)) ++ [0#8]
      | .escape => [0#8, 0#8, 0#8, 0#8, 0#8, 0#8, 0#8, 0#8, 64#8]
      | .empty => [0#8, 0#8, 0#8, 0#8, 0#8, 0#8, 0#8, 0#8, 0#8]) ∧
    s.spreadBytes x.number = (List.finRange 64).map fun k => occupant x.spread[k]) ∧
  (∀ (s : State) (c : CardId), ∃ (spare : Nat) (spares : Port → Nat) (free0 free1 : Port → Byte),
    spare < 2 ∧ (∀ p, spares p < 2) ∧
    let card := s.view.cards[c]
    let own := card.presence = .self
    let last := if own then some (Vector.ofFn fun p => s.reported p) else card.lastHeard
    let mark := if own then s.view.draining else card.recheck
    let deadline := match card.presence with
      | .present (.due _) => 1
      | .withdrawn (.due _) => 1
      | .present .suspended => 2
      | .withdrawn .suspended => 2
      | _ => 0
    let left := match card.presence.dueTime with
      | some time => (time - s.clock.now + 999) / 1000
      | none => 0
    s.viewBytes c = [BitVec.ofNat 8 (128 * spare + 64 * last.isSome.toNat + 16 * deadline + 8 * mark.toNat + presence card.presence),
        BitVec.ofNat 8 left] ++
      two (match last with
        | none => 0
        | some st => ((List.finRange 8).map fun p => 4 ^ p.val *
            (match st[p] with | .up => 0 | .lost => 1 | .held => 2 | .unwatched => 3)).sum) ++
      (List.finRange 8).flatMap fun p =>
        let e := s.view.entries[uplinkOf c p]
        let first := 128 * e.firstMark.toNat + 64 * spares p
        match e.state with
          | .admitted => [BitVec.ofNat 8 first, free0 p, free1 p]
          | .settling time => BitVec.ofNat 8 (first + 1) :: two ((time - s.clock.now + 999) / 1000)
          | .dark r => [BitVec.ofNat 8 (first + 4 * (match r with
              | .lost => 1 | .held => 2 | .unwatched => 3 | .absent => 4 | .withdrawn => 5 | .unheard => 6 | .isolated => 7) + 2),
            free0 p, free1 p]) ∧
  (∀ s : State, s.cardsBytes = (List.finRange 8).map fun k => BitVec.ofNat 8
    (16 * presence s.view.cards[2 * k.val].presence + presence s.view.cards[2 * k.val + 1].presence)) ∧
  ∀ (b0 b1 : Byte) (s : State), s.TakesCommand →
    (exec .status s = .next { s.responding (0x00#8 :: s.statusBytes) with
      model := { s.model with freeUse := s.model.freeUse + 1 } } ∧ s.statusBytes.length = 6) ∧
    (s.isLoading = false →
      (exec (.readGroup b0 b1) s = .next { s.responding (0x00#8 :: s.groupBytes (groupArg b0 b1)) with
        model := { s.model with freeUse := s.model.freeUse + 10 } } ∧ (s.groupBytes (groupArg b0 b1)).length = 30) ∧
      (exec (.readSpread b0 b1) s = .next (s.responding (0x00#8 :: s.spreadBytes (groupArg b0 b1))) ∧
        (s.spreadBytes (groupArg b0 b1)).length = 64) ∧
      (exec (.readView b0) s = .next { s.responding (0x00#8 :: s.viewBytes (cardArg b0)) with
        model := { s.model with freeUse := s.model.freeUse + 25 } } ∧ (s.viewBytes (cardArg b0)).length = 28) ∧
      exec .readCards s = .next (s.responding (0x00#8 :: s.cardsBytes)) ∧ s.cardsBytes.length = 8)

/-- R153, R164: READ_JOURNAL n delivers the smaller of n and the number of committed records, oldest first, 16 bytes each, and they leave
the ring; the records held back stay. Nothing else changes but the count of free bytes used (the model's own, log 15). R159, R181, sections
12.1 and 12.6: the 16 bytes of a record of each kind: kind code, subject, timestamp, and the detail words; what is left open is the
existentially given spare bits. -/
def Obligations.ReadJournalDeliversTheOldest : Prop :=
  (∀ (n : Byte) (s : State), s.TakesCommand → s.isLoading = false →
    let count := min n.toNat s.journal.committed.length
    let bytes := s.recordBytes 0 (s.journal.committed.take count)
    exec (.readJournal n) s = .next { State.responding (0x00#8 :: BitVec.ofNat 8 count :: bytes) s with
      journal := { s.journal with
        committed := s.journal.committed.drop count
        readPos := s.journal.readPos + Fin.ofNat 64 count }
      model := { s.model with freeUse := s.model.freeUse + 3 * count } } ∧
    bytes.length = 16 * count ∧
    ∀ (k : Nat) (r : JournalRecord), k < count → s.journal.committed[k]? = some r →
      ∃ f0 f1 f2 : Byte, (bytes.drop (16 * k)).take 16 = r.bytes f0 f1 f2) ∧
  ∀ (f0 f1 f2 : Byte) (time : BitVec 32) (b : JournalBody),
    let two := fun n : Nat => [BitVec.ofNat 8 (n / 256), BitVec.ofNat 8 n]
    let kind := match b with
      | .viewChange _ _ => 1#8
      | .cardSeen _ => 2#8
      | .cardLost _ => 3#8
      | .cardWithdrawn _ => 4#8
      | .cardReturned _ => 5#8
      | .busFault => 6#8
      | .busClear => 7#8
      | .muted => 8#8
      | .clash _ => 9#8
      | .groupMode _ _ => 10#8
      | .episodeEnd _ _ _ _ => 11#8
      | .configDefaulted _ => 12#8
      | .configClamped _ => 13#8
      | .pendingDiscarded _ => 14#8
      | .joined _ _ => 15#8
    ∃ spare0 spare1 spare2 : Nat, spare0 < 16 ∧ spare1 < 1024 ∧ spare2 < 16 ∧
      let subject := match b with
        | .viewChange u _ => 1 * 2 ^ 14 + 2 ^ 10 * spare0 + u.val
        | .cardSeen c => 2 * 2 ^ 14 + 2 ^ 10 * spare0 + c.val
        | .cardLost c => 2 * 2 ^ 14 + 2 ^ 10 * spare0 + c.val
        | .cardWithdrawn c => 2 * 2 ^ 14 + 2 ^ 10 * spare0 + c.val
        | .cardReturned c => 2 * 2 ^ 14 + 2 ^ 10 * spare0 + c.val
        | .clash c => 2 * 2 ^ 14 + 2 ^ 10 * spare0 + c.val
        | .groupMode g _ => 3 * 2 ^ 14 + 2 ^ 10 * spare0 + g.val
        | _ => 0
      let words := match b with
        | .viewChange _ .admitted => [64 * spare1, 0, 0, 0]
        | .viewChange _ .settling => [64 * spare1 + 1, 0, 0, 0]
        | .viewChange _ (.dark r) => [64 * spare1 + 4 * (match r with
            | .lost => 1 | .held => 2 | .unwatched => 3 | .absent => 4 | .withdrawn => 5 | .unheard => 6 | .isolated => 7) + 2,
          0, 0, 0]
        | .groupMode _ m => [match m with
            | .unused => 0 | .tier0 => 1 | .tier0Short => 2 | .tier1 => 3 | .escape => 4 | .dark => 5, 0, 0, 0]
        | .episodeEnd groups slots views duration => [groups, slots, views, duration]
        | .configDefaulted cause => [match cause with | .noRom => 1 | .badMagic => 2 | .badCrc => 3, 0, 0, 0]
        | .configClamped marks =>
          [2 ^ 12 * spare2 + ((List.finRange 12).map fun m : Fin 12 => if marks[m] = true then 2 ^ m.val else 0).sum, 0, 0, 0]
        | .pendingDiscarded n => [n, 0, 0, 0]
        | .joined start n => [match start with | .cold => 0 | .warm => 1, n, 0, 0]
        | _ => [0, 0, 0, 0]
      (⟨b, time⟩ : JournalRecord).bytes f0 f1 f2 = kind :: two subject ++ [0#8] ++
        [time.extractLsb' 24 8, time.extractLsb' 16 8, time.extractLsb' 8 8, time.extractLsb' 0 8] ++ words.flatMap two

/-- R14, R153: READ_COUNTERS answers with the 25 counters in the order of R153, two bytes each, and sets each to 0; nothing else changes, the
completed-job count and the lost count among it. -/
def Obligations.ReadCountersClearsTheCounters : Prop :=
  ∀ s : State, s.TakesCommand → s.isLoading = false →
    let counters := ((List.finRange 8).map fun p => s.monitors[p].losses) ++
      ((List.finRange 8).map fun p => s.monitors[p].glitches) ++
      [s.bus.framesSent, s.bus.arbLost, s.bus.aborts, s.bus.framesReceived, s.bus.framingErrors, s.bus.crcErrors,
        s.lookup.patched, s.lookup.discarded, s.lookup.noRoute]
    counters.length = 25 ∧
    exec .readCounters s = .next (State.responding
      (0x00#8 :: counters.flatMap fun c => [c.extractLsb' 8 8, c.extractLsb' 0 8])
      { s with
        monitors := Vector.ofFn fun p => { s.monitors[p] with losses := 0#16, glitches := 0#16 }
        bus := { s.bus with
          framesSent := 0#16, arbLost := 0#16, aborts := 0#16, framesReceived := 0#16, framingErrors := 0#16, crcErrors := 0#16 }
        lookup := { s.lookup with patched := 0#16, discarded := 0#16, noRoute := 0#16 } })

/-- R39, R40, R74, R155, R156: DRAIN in SERVE sets the draining flag, darkens the eight own entries as WITHDRAWN and raises withdraw-due; it
is refused with NOT_YET under the rejoin mark, and changes nothing while draining. UNDRAIN clears the flag, finds the own entries
afresh from the monitors, clears withdraw-due, raises beacon-due and sets the rejoin mark; it changes nothing while not draining. The
moves of both hand on their records, notices and drops (R35, R36, R108, R109). -/
def Obligations.DrainAndUndrainMoveTheOwnEntries : Prop :=
  ∀ s : State, s.TakesCommand →
    (s.start.phase = .serve → s.sender.rejoin = true → exec .drain s = .next (s.responding [0x02#8])) ∧
    (s.start.phase = .serve → s.sender.rejoin = false → s.view.draining = true →
      exec .drain s = .next (s.responding [0x00#8])) ∧
    (s.start.phase = .serve → s.sender.rejoin = false → s.view.draining = false →
      s.view.cards[s.start.cardId].presence = .self →
      ∃ t, exec .drain s = .next t ∧
        State.SameButEntries (State.responding [0x00#8] { s with
          view := { s.view with draining := true }
          sender := { s.sender with withdrawDue := true } }) t ∧
        s.HandsOn [] t ∧ ∀ u : Uplink,
          (cardOf u ≠ s.start.cardId → t.view.entries[u] = s.view.entries[u]) ∧
          (cardOf u = s.start.cardId → t.view.entries[u] = { s.view.entries[u] with state := .dark .withdrawn })) ∧
    (s.isLoading = false → s.view.draining = false → exec .undrain s = .next (s.responding [0x00#8])) ∧
    (s.isLoading = false → s.view.draining = true → s.view.cards[s.start.cardId].presence = .self →
      ∃ t, exec .undrain s = .next t ∧
        State.SameButEntries (State.responding [0x00#8] { s with
          view := { s.view with draining := false }
          sender := { s.sender with withdrawDue := false, beaconDue := true, rejoin := true } }) t ∧
        s.HandsOn [] t ∧ ∀ u : Uplink,
          (cardOf u ≠ s.start.cardId → t.view.entries[u] = s.view.entries[u]) ∧
          (cardOf u = s.start.cardId → t.view.entries[u] =
            s.view.entries[u].applyStanding s.clock.now s.start.settings.admissionDelay
              (match s.reported (portOf u) with
                | .up => .inService
                | .lost => .dark .lost
                | .held => .dark .held
                | .unwatched => .dark .unwatched)))

/-- R142 to R144: what is not taken or refused. While a reset line is asserted nothing is taken and the chip select is ignored from then
on; a transaction carries one command; in LOADING every command but STATUS is answered NOT_READY, and DRAIN also in LISTEN; a byte that
names no command is answered UNKNOWN_COMMAND in every phase. None of these changes anything else. -/
def Obligations.RefusedCommandsChangeNothing : Prop :=
  ∀ (c : Instr) (bytes : List Byte) (s : State), WellFormed c = true → encodeTransaction c = some bytes →
    ((s.pins.resetN = true ∨ s.pins.warmN = true) →
      exec c s = .next { s with port := { s.port with transaction := .ignored } }) ∧
    (s.pins.resetN = false → s.pins.warmN = false → s.port.transaction = .taken ∨ s.port.transaction = .ignored →
      exec c s = .next s) ∧
    (s.TakesCommand → s.isLoading = true → c ≠ .status → (∀ b, c ≠ .unknownCommand b) →
      exec c s = .next (s.responding [0x01#8])) ∧
    (s.TakesCommand → c = .drain → s.start.phase ≠ .serve → exec c s = .next (s.responding [0x01#8])) ∧
    (s.TakesCommand → (∃ b, c = .unknownCommand b) → exec c s = .next (s.responding [0x7F#8]))

/-- R142, R144, section 12.4: the bytes of a table port command, with whatever follows them, are taken as that command; cut before the last
argument byte they are taken as none. -/
def Obligations.TransactionBytesAreTakenAsTheCommand : Prop :=
  ∀ (c : Instr) (bytes extra : List Byte) (n : Nat), WellFormed c = true → encodeTransaction c = some bytes →
    decodeTransaction (bytes ++ extra) = some c ∧ (n < bytes.length → decodeTransaction (bytes.take n) = none)

/-! ### Start, join and reset -/

/-- R16, R28, R47, R69, R71, R105, R126, R140, R145, R158, R166, R168: POWER_UP, and RESET_N_ASSERTED with the line high before, perform a
cold reset: every block takes its reset values, the time base is 0, the phase is LOADING and the start cold; a transaction under way
ends, and a chip select held asserted is ignored until its release (R142). The load waits
while a line is asserted. (That POWER_UP with no line asserted samples the straps and begins the load with its 50 ms is the model's
choice and reading, logs 4 and 6; until then the card id is not said.) -/
def Obligations.ColdResetClearsThePart : Prop :=
  ∀ (straps : CardId) (s : State),
    let cleared := fun (t : State) =>
      t.clock = { s.clock with timeBase := 0#32, nextTick := none } ∧ t.start.kind = .cold ∧
      (∀ p : Port, t.monitors[p] = ⟨.dark, 0, false, 0#16, 0#16⟩) ∧
      (∀ u : Uplink, t.view.entries[u] = ⟨.dark .unheard, true⟩) ∧
      (∀ c : CardId, t.view.cards[c] = ⟨.unheard, none, false⟩) ∧ t.view.draining = false ∧ t.view.isolated = false ∧
      t.bus = ⟨.stopped, .off, 0, false, 0#16, 0#16, 0#16, 0#16, 0#16, 0#16⟩ ∧
      t.sender = ⟨false, false, false, false, none, [], false⟩ ∧
      t.store.groups = [] ∧ (∀ u : Uplink, t.store.memberLists[u] = []) ∧ t.store.pool = [] ∧
      t.engine = ⟨[], [], [], none, none, 0#16, none, 0⟩ ∧
      t.lookup = { s.lookup with
        queue := [], dropUplinks := [], dropGroups := [], dropAll := false, lastKind := .dropGroup
        patched := 0#16, discarded := 0#16, noRoute := 0#16 } ∧
      t.port = ⟨⟨Vector.replicate 8 none, 1, none, true⟩,
        if s.port.transaction = .released then .released else .ignored, false, []⟩ ∧
      t.journal.committed = [] ∧ t.journal.heldBack = [] ∧ t.journal.episodeOpen = false ∧ t.journal.lost = 0#16 ∧
      t.alertAsserted = false ∧ t.model = s.model ∧ t.pending = s.pending
    (∃ t, exec (.powerUp straps) s = .next t ∧ cleared t ∧ t.pins = s.pins ∧
      (if s.pins.resetN = true ∨ s.pins.warmN = true then t.start.phase = .loading .waiting
        else t.start.phase = .loading (.reading (s.clock.now + 50000)) ∧ t.start.cardId = straps)) ∧
    (s.pins.resetN = false →
      ∃ t, exec .resetNAsserted s = .next t ∧ cleared t ∧ t.pins = { s.pins with resetN := true } ∧
        t.start.phase = .loading .waiting)

/-- R17, R29, R47, R69, R71, R106, R125, R133, R140, R145, R157, R167, R168: WARM_N_ASSERTED, with RESET_N high, performs a warm reset; so does
the release of chip select after WARM_RESET, which then begins the load. Penalties, flags, counters, groups, member lists, the
completed-job count, the time base, the records and the lost count are kept; monitor states, the view, the bus, the sending side, the
worklist, the job, the episode, the pool, the drop sets and the queue are not; the held-back records are committed. While RESET_N is
asserted WARM_N_ASSERTED changes the level of its line alone (R168), and while either is asserted the release of chip select ends its
transaction alone. A transaction under way at the reset ends, its command taken or not, and a chip select held asserted is ignored until
its release (R142). The chip select may be asserted again with its release (`again`; log 14). (That a discarded count not yet reported
is added to is log 17, DEDUCED; that the release which performs the warm reset samples the straps and begins the read, with the 50 ms of
R169, is log 6, DEDUCED.) -/
def Obligations.WarmResetKeepsWhatItKeeps : Prop :=
  (∀ s : State, s.pins.resetN = true → exec .warmNAsserted s = .next { s with pins := { s.pins with warmN := true } }) ∧
  (∀ (straps : CardId) (again : Bool) (s : State), s.pins.resetN = true ∨ s.pins.warmN = true → s.port.warmOrdered = false →
    exec (.chipSelectRelease ⟨straps, again⟩) s = .next { s with port := { s.port with
      transaction := if again = true then .ignored else .released
      response := [] } }) ∧
  ∀ (straps : CardId) (again : Bool) (s : State), s.pins.resetN = false → s.pins.warmN = false →
    let kept := fun (t : State) =>
      t.clock = { s.clock with nextTick := none } ∧
      t.start.kind = (if s.isLoading = true then s.start.kind else .warm) ∧
      (∀ p : Port, t.monitors[p] = { s.monitors[p] with state := .dark }) ∧
      (∀ u : Uplink, t.view.entries[u] = ⟨.dark .unheard, true⟩) ∧
      (∀ c : CardId, t.view.cards[c] = ⟨.unheard, none, false⟩) ∧ t.view.draining = false ∧ t.view.isolated = false ∧
      t.bus = { s.bus with ctl := .stopped, framer := .off, abortRun := 0, clashMark := false } ∧
      t.sender = ⟨false, false, false, false, none, [], false⟩ ∧
      t.store = { s.store with pool := [] } ∧
      t.engine = ⟨[], [], [], none, none, s.engine.completed, none, s.engine.discarded + s.store.pool.length +
        (match s.engine.job with | some (.build _ _ _) => 1 | _ => 0)⟩ ∧
      t.lookup = { s.lookup with
        queue := [], dropUplinks := [], dropGroups := [], dropAll := false, lastKind := .dropGroup } ∧
      t.journal = { s.journal with
        committed := s.journal.committed ++ s.journal.heldBack, heldBack := [], episodeOpen := false } ∧
      t.model = s.model ∧ t.pending = s.pending
    (∃ t, exec .warmNAsserted s = .next t ∧ kept t ∧ t.pins = { s.pins with warmN := true } ∧
      t.start.phase = .loading .waiting ∧
      t.port = ⟨⟨Vector.replicate 8 none, 1, none, true⟩,
        if s.port.transaction = .released then .released else .ignored, false, []⟩) ∧
    (s.TakesCommand → s.isLoading = false →
      exec .warmReset s = .next (State.responding [0x00#8] { s with port := { s.port with warmOrdered := true } })) ∧
    (s.port.warmOrdered = false → exec (.chipSelectRelease ⟨straps, again⟩) s =
      .next { s with port := { s.port with transaction := if again = true then .selected else .released, response := [] } }) ∧
    (s.port.warmOrdered = true → ∃ t, exec (.chipSelectRelease ⟨straps, again⟩) s = .next t ∧ kept t ∧ t.pins = s.pins ∧
      t.start.phase = .loading (.reading (s.clock.now + 50000)) ∧ t.start.cardId = straps ∧
      t.port = ⟨⟨Vector.replicate 8 none, 1, none, true⟩, if again = true then .selected else .released, false, []⟩)

/-- R168, R169: the release of a reset line samples the straps and begins the load with its 50 ms limit if the other line is not asserted,
and else only changes the level; at the limit the load has timed out. (That the straps are sampled at the last release is log 6,
DEDUCED, and that time comes up to the limit is the model's choice, log 2.) -/
def Obligations.ReleaseBeginsTheLoad : Prop :=
  ∀ (straps : CardId) (s : State),
    (s.pins.resetN = true → s.pins.warmN = false → exec (.resetNReleased straps) s = .next { s with
      pins := { s.pins with resetN := false }
      start := { s.start with cardId := straps, phase := .loading (.reading (s.clock.now + 50000)) } }) ∧
    (s.pins.resetN = false → s.pins.warmN = true → exec (.warmNReleased straps) s = .next { s with
      pins := { s.pins with warmN := false }
      start := { s.start with cardId := straps, phase := .loading (.reading (s.clock.now + 50000)) } }) ∧
    (s.pins.resetN = true → s.pins.warmN = true →
      exec (.resetNReleased straps) s = .next { s with pins := { s.pins with resetN := false } } ∧
      exec (.warmNReleased straps) s = .next { s with pins := { s.pins with warmN := false } }) ∧
    ∀ limit, s.start.phase = .loading (.reading limit) → exec .loadTimeout s = .next { s with
      clock := (s.advanceTo limit).clock
      start := { s.start with phase := .loading .timedOut } }

/-- R15, R47, R69, R169 to R172: the end of loading, with the read complete in time, ended late, or timed out. The settings the image gives,
or, for no image in time, the defaults, are in force; the configuration record, if any, is appended, and after a warm start PENDING_DISCARDED; the phase is LISTEN for one
presence window; the monitors, the own card and its entries, the decay tick and the bus take up their starting states; nothing is handed
on. -/
def Obligations.EndOfLoadingTakesUpTheStart : Prop :=
  ∀ (rom : RomRead) (s : State),
    (s.start.phase = .loading .timedOut ∨ ∃ limit, s.start.phase = .loading (.reading limit)) →
    let judged := judgeRead (match s.start.phase with
      | .loading (.reading limit) => if s.clock.now ≤ limit then rom else .noAck
      | _ => .noAck)
    let j := match judged.2 with
      | some b => s.journal.append ⟨b, s.clock.timeBase⟩
      | none => s.journal
    ∃ t, exec (.endOfLoading rom) s = .next t ∧
      t.start = { s.start with
        settings := judged.1, phase := .listen (s.clock.now + 1000 * judged.1.presenceWindow) } ∧
      t.clock = { s.clock with nextTick := some (s.clock.now + 1000 * judged.1.decayTick) } ∧
      (∀ p : Port, t.monitors[p] = { s.monitors[p] with
        state := if judged.1.watch.getLsbD p.val = false then .off
          else if s.pins.light[p] = true then .returning (s.clock.now + 1000 * judged.1.returnDebounce) else .dark }) ∧
      (∀ c : CardId, t.view.cards[c] =
        if c = s.start.cardId then { s.view.cards[c] with presence := .self } else s.view.cards[c]) ∧
      (∀ u : Uplink, cardOf u ≠ s.start.cardId → t.view.entries[u] = s.view.entries[u]) ∧
      (∀ u : Uplink, cardOf u = s.start.cardId → t.view.entries[u] = { s.view.entries[u] with
        state := .dark (if judged.1.watch.getLsbD (portOf u).val = false then .unwatched else .lost) }) ∧
      t.view.draining = s.view.draining ∧ t.view.isolated = s.view.isolated ∧
      t.bus = { s.bus with ctl := .open, framer := .gap 0 } ∧
      t.journal = (match s.start.kind with
        | .cold => j
        | .warm => j.append ⟨.pendingDiscarded s.engine.discarded, s.clock.timeBase⟩) ∧
      t.engine = { s.engine with discarded := 0 } ∧
      t.pins = s.pins ∧ t.sender = s.sender ∧ t.store = s.store ∧ t.lookup = s.lookup ∧ t.port = s.port ∧
      t.model = s.model ∧ t.pending = s.pending

/-- R169, R170, R180: which read of the ROM gives which settings and which record. A used image is taken as stored, each item brought within
its range and on its step, U below S, and the presence window to two beacon intervals; CONFIG_CLAMPED marks what was changed. The
defaults and the places of the items are those of section 12.5. -/
def Obligations.ImageIsJudgedInOrder : Prop :=
  judgeRead .noAck = (Settings.default, some (.configDefaulted .noRom)) ∧
  Settings.default = {
    bitRate := .m4, watch := 0xFF#8, lossDebounce := 5, returnDebounce := 10, charge := 1000, suppress := 3000, reuse := 1500
    decayRate := 64, decayTick := 100, admissionDelay := 2000, beaconInterval := 5, presenceWindow := 20, txLimit := 8
    txWindow := 100, policy := .hold, settleTime := 20 } ∧
    ∀ bytes : List Byte, bytes.length = 27 →
      let magicOk := bytes.take 2 = [0xD2#8, 0x24#8]
      let crcOk := crcOf ((bytes.take 25).flatMap bitsOf) = bytes.getD 25 0#8 ++ bytes.getD 26 0#8
      let byte := fun i : Nat => (bytes.getD i 0#8).toNat
      let word := fun i : Nat => 256 * byte i + byte (i + 1)
      let x : Settings := {
        bitRate := if byte 2 % 4 = 0 then .m1 else if byte 2 % 4 = 1 then .m2 else if byte 2 % 4 = 2 then .m4 else .m8
        watch := bytes.getD 3 0#8
        lossDebounce := byte 4, returnDebounce := byte 5, charge := word 6, suppress := word 8, reuse := word 10
        decayRate := word 12, decayTick := word 14, admissionDelay := word 16, beaconInterval := byte 18
        presenceWindow := byte 19, txLimit := byte 20, txWindow := word 21
        policy := if byte 23 % 2 = 0 then .hold else .localOnly
        settleTime := byte 24 }
      (¬ magicOk → judgeRead (.image bytes) = (Settings.default, some (.configDefaulted .badMagic))) ∧
      (magicOk → ¬ crcOk → judgeRead (.image bytes) = (Settings.default, some (.configDefaulted .badCrc))) ∧
      (magicOk → crcOk → ∀ d, d = (judgeRead (.image bytes)).1 →
        d.Law ∧
        d.bitRate = x.bitRate ∧ d.watch = bytes.getD 3 0#8 ∧ d.policy = x.policy ∧
        d.admissionDelay = x.admissionDelay ∧
        d.lossDebounce = max 1 (min 64 x.lossDebounce) ∧
        d.returnDebounce = max 1 (min 64 x.returnDebounce) ∧
        d.charge = min 2047 x.charge ∧
        d.suppress = max 1 (min 8191 x.suppress) ∧
        d.reuse = min (d.suppress - 1) x.reuse ∧
        d.decayRate = max 1 (min 512 x.decayRate) ∧
        d.decayTick = max 10 (min 2550 (10 * (x.decayTick / 10))) ∧
        d.beaconInterval = max 1 (min 64 x.beaconInterval) ∧
        d.presenceWindow = max (max 2 x.presenceWindow) (2 * d.beaconInterval) ∧
        d.txLimit = max 2 (min 16 x.txLimit) ∧
        d.txWindow = max 10 (min 1000 (10 * (x.txWindow / 10))) ∧
        d.settleTime = max 1 x.settleTime ∧
        (judgeRead (.image bytes)).2 = if d = x then none else some (.configClamped
          #v[x.lossDebounce != d.lossDebounce, x.returnDebounce != d.returnDebounce, x.charge != d.charge,
            x.suppress != d.suppress, x.reuse != d.reuse, x.decayRate != d.decayRate, x.decayTick != d.decayTick,
            x.beaconInterval != d.beaconInterval, x.presenceWindow != d.presenceWindow, x.txLimit != d.txLimit,
            x.txWindow != d.txWindow, x.settleTime != d.settleTime]))

/-- R73, R75, R111, R136, R173, R174: the listen deadline. The phase is SERVE, the drop-all flag set, beacon-due raised and the beacon timer
started; after a warm start a SWEEP is placed, after a cold one none; JOINED with the kind of the start and the number of other cards heard is
the newest record, the others being kept but for the oldest of a full ring. The SWEEP opens an episode where the engine is at rest with
none open, and ends the settling of an open one (R122, R124). (That time comes up to the deadline is the model's choice, log 2; whether
the SWEEP or JOINED comes first is open, log 8.) -/
def Obligations.ListenDeadlineEntersServe : Prop :=
  ∀ (deadline : Nat) (s : State), s.start.phase = .listen deadline →
    ∃ t, exec .listenDeadline s = .next t ∧
      t.clock = (s.advanceTo deadline).clock ∧ t.start = { s.start with phase := .serve } ∧
      t.lookup = { s.lookup with dropAll := true } ∧
      t.sender = { s.sender with
        beaconDue := true
        beaconTimer := some (max s.clock.now deadline + 1000 * s.start.settings.beaconInterval) } ∧
      (let joined : JournalRecord := ⟨.joined s.start.kind ((List.finRange 16).countP fun c => c != s.start.cardId &&
        s.view.cards[c].presence.heard), t.clock.timeBase⟩
      t.journal.newest = some joined ∧
        (s.start.kind = .cold → t.journal = s.journal.append joined) ∧
        (s.journal.size ≤ 64 →
          t.journal.records = (s.journal.records ++ [joined]).drop (s.journal.size + 1 - 64) ∧
          t.journal.lost = if s.journal.size = 64 then satInc s.journal.lost else s.journal.lost)) ∧
      t.engine.episode = (match s.start.kind, s.engine.episode with
        | .cold, e => e
        | .warm, some e => some { e with settle := none }
        | .warm, none => if s.engine.job = none ∧ s.engine.worklistLength = 0
            then some ⟨max s.clock.now deadline, [], 0, 0, none⟩ else none) ∧
      t.journal.episodeOpen = (s.journal.episodeOpen ||
        (s.start.kind == .warm && s.engine.episode.isNone && s.engine.job.isNone && s.engine.worklistLength == 0)) ∧
      t.engine.sweep = (match s.start.kind with
        | .warm => some ⟨none⟩
        | .cold => s.engine.sweep) ∧
      t.engine.urgent = s.engine.urgent ∧ t.engine.calm = s.engine.calm ∧ t.engine.build = s.engine.build ∧
      t.engine.job = s.engine.job ∧ t.engine.completed = s.engine.completed ∧ t.engine.discarded = s.engine.discarded ∧
      t.pins = s.pins ∧ t.monitors = s.monitors ∧ t.view = s.view ∧ t.bus = s.bus ∧ t.store = s.store ∧ t.port = s.port ∧
      t.model.freeUse = s.model.freeUse ∧ t.pending = s.pending

/-- R168, R170: every step keeps the settings in force within their ranges, with U below S and the presence window at least two beacon
intervals, and keeps the load waiting while a reset line is asserted. -/
def Obligations.SettingsAndResetLawsAreKept : Prop :=
  ∀ s t : State, step s = .next t →
    (s.SettingsLaw → t.SettingsLaw) ∧ (s.ResetLaw → t.ResetLaw)

/-! ### The Journal -/

/-- R158, R160 to R163, R165: one append. The record is the newest; with no episode open, or as the 32nd held back, it is committed with all
held back before it and ALERT_N is asserted; else it is held back; with 64 records held the oldest goes and the lost count rises. And
every step keeps at most 64 records, fewer than 32 of them held back, and none held back with no episode open. -/
def Obligations.JournalCommitsAndKeepsItsLaw : Prop :=
  (∀ s t : State, s.journal.Law → step s = .next t → t.journal.Law) ∧
  ∀ (b : JournalBody) (s : State), s.journal.Law →
    let t := s.append b
    let r : JournalRecord := ⟨b, s.clock.timeBase⟩
    let all := s.journal.committed ++ s.journal.heldBack
    let rest := if s.journal.size = 64 then all.tail else all
    t.journal.committed ++ t.journal.heldBack = rest ++ [r] ∧
    t.journal.lost = (if s.journal.size = 64 then satInc s.journal.lost else s.journal.lost) ∧
    (s.journal.episodeOpen = false ∨ s.journal.heldBack.length = 31 → t.journal.heldBack = [] ∧ t.alertAsserted = true) ∧
    (s.journal.episodeOpen = true → s.journal.heldBack.length < 31 → t.journal.heldBack = s.journal.heldBack ++ [r]) ∧
    t.journal.episodeOpen = s.journal.episodeOpen

/-! ### Reset meets the laws -/

/-- The state after reset meets every law stated above, so that each law holds in every state a run from it reaches. -/
def Obligations.ResetMeetsEveryLaw : Prop :=
  State.reset.ResetLaw ∧ State.reset.DampingLaw ∧ State.reset.ViewLaw ∧ State.reset.MarkLaw ∧ State.reset.BusLaw ∧
    State.reset.SenderLaw ∧ State.reset.GroupLaw ∧ State.reset.store.ListLaw ∧ State.reset.WorkLaw ∧
    State.reset.EpisodeLaw ∧ State.reset.LookupLaw ∧ State.reset.journal.Law ∧ State.reset.SettingsLaw
end

