-- ==== Sys2Proof/Laws/State.lean ====
section
/-! SUPPORT. One lemma per field per setter of State, true by rfl, and the two laws of `setAt`. -/

namespace Sys2Proof

/-- The place written reads what was written. -/
@[simp] theorem setAt_same {α : Type} {n : Nat} (v : Vector α n) (i : Fin n) (x : α) : (setAt v i x)[i.val] = x := by
  simp [setAt]

/-- Every other place reads as before. -/
theorem setAt_other {α : Type} {n : Nat} (v : Vector α n) (i j : Fin n) (x : α) (h : i ≠ j) : (setAt v i x)[j] = v[j] := by
  simp only [setAt, Fin.getElem_fin]
  exact Vector.getElem_set_ne i.isLt j.isLt (fun e => h (Fin.ext e))

/-- A place after a write, by cases. -/
theorem setAt_get {α : Type} {n : Nat} (v : Vector α n) (i j : Fin n) (x : α) :
    (setAt v i x)[j] = if i = j then x else v[j] := by
  by_cases h : i = j
  · subst h; simp
  · simp only [h, if_false]; exact setAt_other v i j x h

namespace Machine.State

variable (s : State)

@[simp] theorem withPins_pins (x : Pins) : (s.withPins x).pins = x := rfl
@[simp] theorem withPins_clock (x : Pins) : (s.withPins x).clock = s.clock := rfl
@[simp] theorem withPins_start (x : Pins) : (s.withPins x).start = s.start := rfl
@[simp] theorem withPins_monitors (x : Pins) : (s.withPins x).monitors = s.monitors := rfl
@[simp] theorem withPins_view (x : Pins) : (s.withPins x).view = s.view := rfl
@[simp] theorem withPins_bus (x : Pins) : (s.withPins x).bus = s.bus := rfl
@[simp] theorem withPins_sender (x : Pins) : (s.withPins x).sender = s.sender := rfl
@[simp] theorem withPins_store (x : Pins) : (s.withPins x).store = s.store := rfl
@[simp] theorem withPins_engine (x : Pins) : (s.withPins x).engine = s.engine := rfl
@[simp] theorem withPins_lookup (x : Pins) : (s.withPins x).lookup = s.lookup := rfl
@[simp] theorem withPins_port (x : Pins) : (s.withPins x).port = s.port := rfl
@[simp] theorem withPins_journal (x : Pins) : (s.withPins x).journal = s.journal := rfl
@[simp] theorem withPins_model (x : Pins) : (s.withPins x).model = s.model := rfl
@[simp] theorem withPins_pending (x : Pins) : (s.withPins x).pending = s.pending := rfl

@[simp] theorem withClock_pins (x : Clock) : (s.withClock x).pins = s.pins := rfl
@[simp] theorem withClock_clock (x : Clock) : (s.withClock x).clock = x := rfl
@[simp] theorem withClock_start (x : Clock) : (s.withClock x).start = s.start := rfl
@[simp] theorem withClock_monitors (x : Clock) : (s.withClock x).monitors = s.monitors := rfl
@[simp] theorem withClock_view (x : Clock) : (s.withClock x).view = s.view := rfl
@[simp] theorem withClock_bus (x : Clock) : (s.withClock x).bus = s.bus := rfl
@[simp] theorem withClock_sender (x : Clock) : (s.withClock x).sender = s.sender := rfl
@[simp] theorem withClock_store (x : Clock) : (s.withClock x).store = s.store := rfl
@[simp] theorem withClock_engine (x : Clock) : (s.withClock x).engine = s.engine := rfl
@[simp] theorem withClock_lookup (x : Clock) : (s.withClock x).lookup = s.lookup := rfl
@[simp] theorem withClock_port (x : Clock) : (s.withClock x).port = s.port := rfl
@[simp] theorem withClock_journal (x : Clock) : (s.withClock x).journal = s.journal := rfl
@[simp] theorem withClock_model (x : Clock) : (s.withClock x).model = s.model := rfl
@[simp] theorem withClock_pending (x : Clock) : (s.withClock x).pending = s.pending := rfl

@[simp] theorem withStart_pins (x : Start) : (s.withStart x).pins = s.pins := rfl
@[simp] theorem withStart_clock (x : Start) : (s.withStart x).clock = s.clock := rfl
@[simp] theorem withStart_start (x : Start) : (s.withStart x).start = x := rfl
@[simp] theorem withStart_monitors (x : Start) : (s.withStart x).monitors = s.monitors := rfl
@[simp] theorem withStart_view (x : Start) : (s.withStart x).view = s.view := rfl
@[simp] theorem withStart_bus (x : Start) : (s.withStart x).bus = s.bus := rfl
@[simp] theorem withStart_sender (x : Start) : (s.withStart x).sender = s.sender := rfl
@[simp] theorem withStart_store (x : Start) : (s.withStart x).store = s.store := rfl
@[simp] theorem withStart_engine (x : Start) : (s.withStart x).engine = s.engine := rfl
@[simp] theorem withStart_lookup (x : Start) : (s.withStart x).lookup = s.lookup := rfl
@[simp] theorem withStart_port (x : Start) : (s.withStart x).port = s.port := rfl
@[simp] theorem withStart_journal (x : Start) : (s.withStart x).journal = s.journal := rfl
@[simp] theorem withStart_model (x : Start) : (s.withStart x).model = s.model := rfl
@[simp] theorem withStart_pending (x : Start) : (s.withStart x).pending = s.pending := rfl

@[simp] theorem withMonitors_pins (x : Vector Monitor 8) : (s.withMonitors x).pins = s.pins := rfl
@[simp] theorem withMonitors_clock (x : Vector Monitor 8) : (s.withMonitors x).clock = s.clock := rfl
@[simp] theorem withMonitors_start (x : Vector Monitor 8) : (s.withMonitors x).start = s.start := rfl
@[simp] theorem withMonitors_monitors (x : Vector Monitor 8) : (s.withMonitors x).monitors = x := rfl
@[simp] theorem withMonitors_view (x : Vector Monitor 8) : (s.withMonitors x).view = s.view := rfl
@[simp] theorem withMonitors_bus (x : Vector Monitor 8) : (s.withMonitors x).bus = s.bus := rfl
@[simp] theorem withMonitors_sender (x : Vector Monitor 8) : (s.withMonitors x).sender = s.sender := rfl
@[simp] theorem withMonitors_store (x : Vector Monitor 8) : (s.withMonitors x).store = s.store := rfl
@[simp] theorem withMonitors_engine (x : Vector Monitor 8) : (s.withMonitors x).engine = s.engine := rfl
@[simp] theorem withMonitors_lookup (x : Vector Monitor 8) : (s.withMonitors x).lookup = s.lookup := rfl
@[simp] theorem withMonitors_port (x : Vector Monitor 8) : (s.withMonitors x).port = s.port := rfl
@[simp] theorem withMonitors_journal (x : Vector Monitor 8) : (s.withMonitors x).journal = s.journal := rfl
@[simp] theorem withMonitors_model (x : Vector Monitor 8) : (s.withMonitors x).model = s.model := rfl
@[simp] theorem withMonitors_pending (x : Vector Monitor 8) : (s.withMonitors x).pending = s.pending := rfl

@[simp] theorem withView_pins (x : View) : (s.withView x).pins = s.pins := rfl
@[simp] theorem withView_clock (x : View) : (s.withView x).clock = s.clock := rfl
@[simp] theorem withView_start (x : View) : (s.withView x).start = s.start := rfl
@[simp] theorem withView_monitors (x : View) : (s.withView x).monitors = s.monitors := rfl
@[simp] theorem withView_view (x : View) : (s.withView x).view = x := rfl
@[simp] theorem withView_bus (x : View) : (s.withView x).bus = s.bus := rfl
@[simp] theorem withView_sender (x : View) : (s.withView x).sender = s.sender := rfl
@[simp] theorem withView_store (x : View) : (s.withView x).store = s.store := rfl
@[simp] theorem withView_engine (x : View) : (s.withView x).engine = s.engine := rfl
@[simp] theorem withView_lookup (x : View) : (s.withView x).lookup = s.lookup := rfl
@[simp] theorem withView_port (x : View) : (s.withView x).port = s.port := rfl
@[simp] theorem withView_journal (x : View) : (s.withView x).journal = s.journal := rfl
@[simp] theorem withView_model (x : View) : (s.withView x).model = s.model := rfl
@[simp] theorem withView_pending (x : View) : (s.withView x).pending = s.pending := rfl

@[simp] theorem withBus_pins (x : Bus) : (s.withBus x).pins = s.pins := rfl
@[simp] theorem withBus_clock (x : Bus) : (s.withBus x).clock = s.clock := rfl
@[simp] theorem withBus_start (x : Bus) : (s.withBus x).start = s.start := rfl
@[simp] theorem withBus_monitors (x : Bus) : (s.withBus x).monitors = s.monitors := rfl
@[simp] theorem withBus_view (x : Bus) : (s.withBus x).view = s.view := rfl
@[simp] theorem withBus_bus (x : Bus) : (s.withBus x).bus = x := rfl
@[simp] theorem withBus_sender (x : Bus) : (s.withBus x).sender = s.sender := rfl
@[simp] theorem withBus_store (x : Bus) : (s.withBus x).store = s.store := rfl
@[simp] theorem withBus_engine (x : Bus) : (s.withBus x).engine = s.engine := rfl
@[simp] theorem withBus_lookup (x : Bus) : (s.withBus x).lookup = s.lookup := rfl
@[simp] theorem withBus_port (x : Bus) : (s.withBus x).port = s.port := rfl
@[simp] theorem withBus_journal (x : Bus) : (s.withBus x).journal = s.journal := rfl
@[simp] theorem withBus_model (x : Bus) : (s.withBus x).model = s.model := rfl
@[simp] theorem withBus_pending (x : Bus) : (s.withBus x).pending = s.pending := rfl

@[simp] theorem withSender_pins (x : Sender) : (s.withSender x).pins = s.pins := rfl
@[simp] theorem withSender_clock (x : Sender) : (s.withSender x).clock = s.clock := rfl
@[simp] theorem withSender_start (x : Sender) : (s.withSender x).start = s.start := rfl
@[simp] theorem withSender_monitors (x : Sender) : (s.withSender x).monitors = s.monitors := rfl
@[simp] theorem withSender_view (x : Sender) : (s.withSender x).view = s.view := rfl
@[simp] theorem withSender_bus (x : Sender) : (s.withSender x).bus = s.bus := rfl
@[simp] theorem withSender_sender (x : Sender) : (s.withSender x).sender = x := rfl
@[simp] theorem withSender_store (x : Sender) : (s.withSender x).store = s.store := rfl
@[simp] theorem withSender_engine (x : Sender) : (s.withSender x).engine = s.engine := rfl
@[simp] theorem withSender_lookup (x : Sender) : (s.withSender x).lookup = s.lookup := rfl
@[simp] theorem withSender_port (x : Sender) : (s.withSender x).port = s.port := rfl
@[simp] theorem withSender_journal (x : Sender) : (s.withSender x).journal = s.journal := rfl
@[simp] theorem withSender_model (x : Sender) : (s.withSender x).model = s.model := rfl
@[simp] theorem withSender_pending (x : Sender) : (s.withSender x).pending = s.pending := rfl

@[simp] theorem withStore_pins (x : Store) : (s.withStore x).pins = s.pins := rfl
@[simp] theorem withStore_clock (x : Store) : (s.withStore x).clock = s.clock := rfl
@[simp] theorem withStore_start (x : Store) : (s.withStore x).start = s.start := rfl
@[simp] theorem withStore_monitors (x : Store) : (s.withStore x).monitors = s.monitors := rfl
@[simp] theorem withStore_view (x : Store) : (s.withStore x).view = s.view := rfl
@[simp] theorem withStore_bus (x : Store) : (s.withStore x).bus = s.bus := rfl
@[simp] theorem withStore_sender (x : Store) : (s.withStore x).sender = s.sender := rfl
@[simp] theorem withStore_store (x : Store) : (s.withStore x).store = x := rfl
@[simp] theorem withStore_engine (x : Store) : (s.withStore x).engine = s.engine := rfl
@[simp] theorem withStore_lookup (x : Store) : (s.withStore x).lookup = s.lookup := rfl
@[simp] theorem withStore_port (x : Store) : (s.withStore x).port = s.port := rfl
@[simp] theorem withStore_journal (x : Store) : (s.withStore x).journal = s.journal := rfl
@[simp] theorem withStore_model (x : Store) : (s.withStore x).model = s.model := rfl
@[simp] theorem withStore_pending (x : Store) : (s.withStore x).pending = s.pending := rfl

@[simp] theorem withEngine_pins (x : Engine) : (s.withEngine x).pins = s.pins := rfl
@[simp] theorem withEngine_clock (x : Engine) : (s.withEngine x).clock = s.clock := rfl
@[simp] theorem withEngine_start (x : Engine) : (s.withEngine x).start = s.start := rfl
@[simp] theorem withEngine_monitors (x : Engine) : (s.withEngine x).monitors = s.monitors := rfl
@[simp] theorem withEngine_view (x : Engine) : (s.withEngine x).view = s.view := rfl
@[simp] theorem withEngine_bus (x : Engine) : (s.withEngine x).bus = s.bus := rfl
@[simp] theorem withEngine_sender (x : Engine) : (s.withEngine x).sender = s.sender := rfl
@[simp] theorem withEngine_store (x : Engine) : (s.withEngine x).store = s.store := rfl
@[simp] theorem withEngine_engine (x : Engine) : (s.withEngine x).engine = x := rfl
@[simp] theorem withEngine_lookup (x : Engine) : (s.withEngine x).lookup = s.lookup := rfl
@[simp] theorem withEngine_port (x : Engine) : (s.withEngine x).port = s.port := rfl
@[simp] theorem withEngine_journal (x : Engine) : (s.withEngine x).journal = s.journal := rfl
@[simp] theorem withEngine_model (x : Engine) : (s.withEngine x).model = s.model := rfl
@[simp] theorem withEngine_pending (x : Engine) : (s.withEngine x).pending = s.pending := rfl

@[simp] theorem withLookup_pins (x : Lookup) : (s.withLookup x).pins = s.pins := rfl
@[simp] theorem withLookup_clock (x : Lookup) : (s.withLookup x).clock = s.clock := rfl
@[simp] theorem withLookup_start (x : Lookup) : (s.withLookup x).start = s.start := rfl
@[simp] theorem withLookup_monitors (x : Lookup) : (s.withLookup x).monitors = s.monitors := rfl
@[simp] theorem withLookup_view (x : Lookup) : (s.withLookup x).view = s.view := rfl
@[simp] theorem withLookup_bus (x : Lookup) : (s.withLookup x).bus = s.bus := rfl
@[simp] theorem withLookup_sender (x : Lookup) : (s.withLookup x).sender = s.sender := rfl
@[simp] theorem withLookup_store (x : Lookup) : (s.withLookup x).store = s.store := rfl
@[simp] theorem withLookup_engine (x : Lookup) : (s.withLookup x).engine = s.engine := rfl
@[simp] theorem withLookup_lookup (x : Lookup) : (s.withLookup x).lookup = x := rfl
@[simp] theorem withLookup_port (x : Lookup) : (s.withLookup x).port = s.port := rfl
@[simp] theorem withLookup_journal (x : Lookup) : (s.withLookup x).journal = s.journal := rfl
@[simp] theorem withLookup_model (x : Lookup) : (s.withLookup x).model = s.model := rfl
@[simp] theorem withLookup_pending (x : Lookup) : (s.withLookup x).pending = s.pending := rfl

@[simp] theorem withPort_pins (x : TablePort) : (s.withPort x).pins = s.pins := rfl
@[simp] theorem withPort_clock (x : TablePort) : (s.withPort x).clock = s.clock := rfl
@[simp] theorem withPort_start (x : TablePort) : (s.withPort x).start = s.start := rfl
@[simp] theorem withPort_monitors (x : TablePort) : (s.withPort x).monitors = s.monitors := rfl
@[simp] theorem withPort_view (x : TablePort) : (s.withPort x).view = s.view := rfl
@[simp] theorem withPort_bus (x : TablePort) : (s.withPort x).bus = s.bus := rfl
@[simp] theorem withPort_sender (x : TablePort) : (s.withPort x).sender = s.sender := rfl
@[simp] theorem withPort_store (x : TablePort) : (s.withPort x).store = s.store := rfl
@[simp] theorem withPort_engine (x : TablePort) : (s.withPort x).engine = s.engine := rfl
@[simp] theorem withPort_lookup (x : TablePort) : (s.withPort x).lookup = s.lookup := rfl
@[simp] theorem withPort_port (x : TablePort) : (s.withPort x).port = x := rfl
@[simp] theorem withPort_journal (x : TablePort) : (s.withPort x).journal = s.journal := rfl
@[simp] theorem withPort_model (x : TablePort) : (s.withPort x).model = s.model := rfl
@[simp] theorem withPort_pending (x : TablePort) : (s.withPort x).pending = s.pending := rfl

@[simp] theorem withJournal_pins (x : Journal) : (s.withJournal x).pins = s.pins := rfl
@[simp] theorem withJournal_clock (x : Journal) : (s.withJournal x).clock = s.clock := rfl
@[simp] theorem withJournal_start (x : Journal) : (s.withJournal x).start = s.start := rfl
@[simp] theorem withJournal_monitors (x : Journal) : (s.withJournal x).monitors = s.monitors := rfl
@[simp] theorem withJournal_view (x : Journal) : (s.withJournal x).view = s.view := rfl
@[simp] theorem withJournal_bus (x : Journal) : (s.withJournal x).bus = s.bus := rfl
@[simp] theorem withJournal_sender (x : Journal) : (s.withJournal x).sender = s.sender := rfl
@[simp] theorem withJournal_store (x : Journal) : (s.withJournal x).store = s.store := rfl
@[simp] theorem withJournal_engine (x : Journal) : (s.withJournal x).engine = s.engine := rfl
@[simp] theorem withJournal_lookup (x : Journal) : (s.withJournal x).lookup = s.lookup := rfl
@[simp] theorem withJournal_port (x : Journal) : (s.withJournal x).port = s.port := rfl
@[simp] theorem withJournal_journal (x : Journal) : (s.withJournal x).journal = x := rfl
@[simp] theorem withJournal_model (x : Journal) : (s.withJournal x).model = s.model := rfl
@[simp] theorem withJournal_pending (x : Journal) : (s.withJournal x).pending = s.pending := rfl

@[simp] theorem withModel_pins (x : ModelOwn) : (s.withModel x).pins = s.pins := rfl
@[simp] theorem withModel_clock (x : ModelOwn) : (s.withModel x).clock = s.clock := rfl
@[simp] theorem withModel_start (x : ModelOwn) : (s.withModel x).start = s.start := rfl
@[simp] theorem withModel_monitors (x : ModelOwn) : (s.withModel x).monitors = s.monitors := rfl
@[simp] theorem withModel_view (x : ModelOwn) : (s.withModel x).view = s.view := rfl
@[simp] theorem withModel_bus (x : ModelOwn) : (s.withModel x).bus = s.bus := rfl
@[simp] theorem withModel_sender (x : ModelOwn) : (s.withModel x).sender = s.sender := rfl
@[simp] theorem withModel_store (x : ModelOwn) : (s.withModel x).store = s.store := rfl
@[simp] theorem withModel_engine (x : ModelOwn) : (s.withModel x).engine = s.engine := rfl
@[simp] theorem withModel_lookup (x : ModelOwn) : (s.withModel x).lookup = s.lookup := rfl
@[simp] theorem withModel_port (x : ModelOwn) : (s.withModel x).port = s.port := rfl
@[simp] theorem withModel_journal (x : ModelOwn) : (s.withModel x).journal = s.journal := rfl
@[simp] theorem withModel_model (x : ModelOwn) : (s.withModel x).model = x := rfl
@[simp] theorem withModel_pending (x : ModelOwn) : (s.withModel x).pending = s.pending := rfl

@[simp] theorem withPending_pins (x : List Instr) : (s.withPending x).pins = s.pins := rfl
@[simp] theorem withPending_clock (x : List Instr) : (s.withPending x).clock = s.clock := rfl
@[simp] theorem withPending_start (x : List Instr) : (s.withPending x).start = s.start := rfl
@[simp] theorem withPending_monitors (x : List Instr) : (s.withPending x).monitors = s.monitors := rfl
@[simp] theorem withPending_view (x : List Instr) : (s.withPending x).view = s.view := rfl
@[simp] theorem withPending_bus (x : List Instr) : (s.withPending x).bus = s.bus := rfl
@[simp] theorem withPending_sender (x : List Instr) : (s.withPending x).sender = s.sender := rfl
@[simp] theorem withPending_store (x : List Instr) : (s.withPending x).store = s.store := rfl
@[simp] theorem withPending_engine (x : List Instr) : (s.withPending x).engine = s.engine := rfl
@[simp] theorem withPending_lookup (x : List Instr) : (s.withPending x).lookup = s.lookup := rfl
@[simp] theorem withPending_port (x : List Instr) : (s.withPending x).port = s.port := rfl
@[simp] theorem withPending_journal (x : List Instr) : (s.withPending x).journal = s.journal := rfl
@[simp] theorem withPending_model (x : List Instr) : (s.withPending x).model = s.model := rfl
@[simp] theorem withPending_pending (x : List Instr) : (s.withPending x).pending = x := rfl

end Machine.State

end Sys2Proof
end

