-- ==== Sys2Proof/Laws/Frames.lean ====
section
/-! SUPPORT. What the moves of view entries leave as it was, and what they do to the entries: one lemma for each shared operation of
Machine/Ops.lean that hands on a notice, a drop or a record. -/

namespace Sys2Proof.Machine

variable {s t r : State}

theorem State.SameButEntries.refl (s : State) : s.SameButEntries s := by
  constructor <;> first | rfl | exact ⟨_, rfl⟩

theorem State.SameButEntries.trans (a : s.SameButEntries t) (b : t.SameButEntries r) : s.SameButEntries r := by
  obtain ⟨l, hl⟩ := a.lookup
  obtain ⟨l', hl'⟩ := b.lookup
  constructor
  case lookup => exact ⟨l', by rw [hl', hl]⟩
  all_goals first
    | exact b.pins.trans a.pins | exact b.clock.trans a.clock | exact b.start.trans a.start
    | exact b.monitors.trans a.monitors | exact b.cards.trans a.cards | exact b.draining.trans a.draining
    | exact b.isolated.trans a.isolated | exact b.bus.trans a.bus | exact b.sender.trans a.sender
    | exact b.store.trans a.store | exact b.build.trans a.build | exact b.sweep.trans a.sweep
    | exact b.job.trans a.job | exact b.completed.trans a.completed | exact b.discarded.trans a.discarded
    | exact b.port.trans a.port | exact b.freeUse.trans a.freeUse | exact b.pending.trans a.pending

theorem State.append_same (b : JournalBody) (s : State) : s.SameButEntries (s.append b) := by
  constructor <;> first | rfl | exact ⟨_, rfl⟩

theorem State.orderMade_same (s : State) : s.SameButEntries s.orderMade := by
  constructor <;> first | rfl | exact ⟨_, rfl⟩

theorem State.putUplinkDrop_same (u : Uplink) (s : State) : s.SameButEntries (s.putUplinkDrop u) := by
  constructor <;> first | rfl | exact ⟨_, rfl⟩

theorem State.entryMade_same (s : State) : s.SameButEntries s.entryMade := by
  unfold State.entryMade
  split
  · constructor <;> first | rfl | exact ⟨_, rfl⟩
  · split
    · constructor <;> first | rfl | exact ⟨_, rfl⟩
    · exact .refl s

theorem State.makeUrgent_same (u : Uplink) (s : State) : s.SameButEntries (s.makeUrgent u) := by
  constructor <;> first | rfl | exact ⟨_, rfl⟩

theorem State.makeCalm_same (u : Uplink) (s : State) : s.SameButEntries (s.makeCalm u) := by
  constructor <;> first | rfl | exact ⟨_, rfl⟩

theorem State.countViewChange_same (s : State) : s.SameButEntries s.countViewChange := by
  constructor <;> first | rfl | exact ⟨_, rfl⟩

theorem State.noticeLeft_same (u : Uplink) (s : State) : s.SameButEntries (s.noticeLeft u) := by
  unfold State.noticeLeft
  refine .trans ?_ (State.countViewChange_same _)
  split
  · exact .refl s
  · exact (s.entryMade_same).trans (State.makeUrgent_same u _)

theorem State.noticeEntered_same (u : Uplink) (s : State) : s.SameButEntries (s.noticeEntered u) := by
  unfold State.noticeEntered
  refine .trans ?_ (State.countViewChange_same _)
  split
  · exact .refl s
  · exact (s.entryMade_same).trans (State.makeCalm_same u _)

theorem State.handLeft_same (u : Uplink) (d : EntryDetail) (s : State) : s.SameButEntries (s.handLeft u d) := by
  have h := (s.orderMade_same).trans (State.putUplinkDrop_same u _)
  unfold State.handLeft
  simp only
  split
  · exact h.trans ((State.noticeLeft_same u _).trans (State.append_same _ _))
  · exact h.trans ((State.append_same _ _).trans (State.noticeLeft_same u _))

theorem State.handEntered_same (u : Uplink) (s : State) : s.SameButEntries (s.handEntered u) := by
  unfold State.handEntered
  simp only
  split
  · exact (s.orderMade_same).trans ((State.noticeEntered_same u _).trans (State.append_same _ _))
  · exact (s.orderMade_same).trans ((State.append_same _ _).trans (State.noticeEntered_same u _))

theorem State.handChange_same (u : Uplink) (old new : EntryState) (s : State) :
    s.SameButEntries (s.handChange u old new) := by
  unfold State.handChange
  split
  · exact .refl s
  · split
    · exact State.handLeft_same u _ s
    · split
      · exact State.handEntered_same u s
      · exact State.append_same _ s

theorem State.moveEntry_same (u : Uplink) (e : Entry) (s : State) : s.SameButEntries (s.moveEntry u e) := by
  refine .trans ?_ (State.handChange_same u _ _ _)
  constructor <;> first | rfl | exact ⟨_, rfl⟩

theorem State.refind_same (u : Uplink) (s : State) : s.SameButEntries (s.refind u) := State.moveEntry_same u _ s

theorem State.refindAll_same (us : List Uplink) (s : State) : s.SameButEntries (s.refindAll us) := by
  induction us generalizing s with
  | nil => exact .refl s
  | cons u us ih => exact (s.refind_same u).trans (ih _)

/-! ### The entries themselves -/

theorem State.append_entries (b : JournalBody) (s : State) : (s.append b).view = s.view := rfl

theorem State.entryMade_view (s : State) : s.entryMade.view = s.view := by
  unfold State.entryMade
  split
  · rfl
  · split <;> rfl

theorem State.noticeLeft_view (u : Uplink) (s : State) : (s.noticeLeft u).view = s.view := by
  unfold State.noticeLeft
  split
  · rfl
  · exact s.entryMade_view

theorem State.noticeEntered_view (u : Uplink) (s : State) : (s.noticeEntered u).view = s.view := by
  unfold State.noticeEntered
  split
  · rfl
  · exact s.entryMade_view

theorem State.handChange_view (u : Uplink) (old new : EntryState) (s : State) :
    (s.handChange u old new).view = s.view := by
  unfold State.handChange
  split
  · rfl
  · split
    · unfold State.handLeft
      simp only
      split
      · exact State.noticeLeft_view u _
      · exact State.noticeLeft_view u _
    · split
      · unfold State.handEntered
        simp only
        split
        · exact State.noticeEntered_view u _
        · exact State.noticeEntered_view u _
      · rfl

/-- A move replaces that one entry. -/
theorem State.moveEntry_entries (u : Uplink) (e : Entry) (s : State) :
    (s.moveEntry u e).view.entries = setAt s.view.entries u e := by
  unfold State.moveEntry
  rw [State.handChange_view]
  rfl

/-- A refind replaces that one entry by what its standing gives. -/
theorem State.refind_entries (u : Uplink) (s : State) :
    (s.refind u).view.entries = setAt s.view.entries u
      (s.view.entries[u].applyStanding s.clock.now s.start.settings.admissionDelay (s.standing u)) :=
  State.moveEntry_entries u _ s

/-- Standings read nothing that a move of an entry changes. -/
theorem State.SameButEntries.standing (h : s.SameButEntries t) (u : Uplink) : t.standing u = s.standing u := by
  simp only [State.standing, State.reported, h.cards, h.draining, h.monitors]

/-- An entry that is not among the uplinks refound is left as it is. -/
theorem State.refindAll_other (us : List Uplink) (s : State) (v : Uplink) (h : v ∉ us) :
    (s.refindAll us).view.entries[v] = s.view.entries[v] := by
  induction us generalizing s with
  | nil => rfl
  | cons u us ih =>
    have hv : u ≠ v := fun e => h (e ▸ List.mem_cons_self)
    have := ih (s.refind u) (fun m => h (List.mem_cons_of_mem _ m))
    rw [show s.refindAll (u :: us) = (s.refind u).refindAll us from rfl, this, State.refind_entries]
    exact setAt_other _ _ _ _ hv

/-- Each uplink of a list without repeats is refound once, against the inputs as they stand at the start. -/
theorem State.refindAll_mem (us : List Uplink) (s : State) (v : Uplink) (nd : us.Nodup) (h : v ∈ us) :
    (s.refindAll us).view.entries[v] =
      s.view.entries[v].applyStanding s.clock.now s.start.settings.admissionDelay (s.standing v) := by
  induction us generalizing s with
  | nil => cases h
  | cons u us ih =>
    have nd' := List.nodup_cons.1 nd
    rw [show s.refindAll (u :: us) = (s.refind u).refindAll us from rfl]
    rcases List.mem_cons.1 h with rfl | h
    · rw [State.refindAll_other us _ v nd'.1, State.refind_entries]
      simp
    · have hv : u ≠ v := fun e => nd'.1 (e ▸ h)
      have same := s.refind_same u
      rw [ih _ nd'.2 h, same.clock, same.start, same.standing, State.refind_entries, setAt_other _ _ _ _ hv]

end Sys2Proof.Machine
end

