-- ==== Sys2Proof/Laws/Ops.lean ====
section
/-! SUPPORT. What the shared operations can do, once each: the clock, the sets held as ascending lists, the groups of the store, the
walks, the table port's taking of a command, an append to the Journal, the bits taken of a frame. -/

namespace Sys2Proof.Machine

/-! ### Clock -/

theorem State.advanceTo_now (t : Nat) (s : State) : (s.advanceTo t).clock.now = max s.clock.now t := by
  simp only [State.advanceTo, State.elapse, State.withClock_clock]
  omega

theorem State.advanceTo_nextTick (t : Nat) (s : State) : (s.advanceTo t).clock.nextTick = s.clock.nextTick := rfl

/-- Time that passes changes the clock alone. -/
theorem State.advanceTo_eq (t : Nat) (s : State) : s.advanceTo t = { s with clock := (s.advanceTo t).clock } := rfl

/-! ### Ascending lists -/

theorem mem_insertAsc {n : Nat} (x y : Fin n) (l : List (Fin n)) : y ∈ insertAsc x l ↔ y = x ∨ y ∈ l := by
  induction l with
  | nil => simp [insertAsc]
  | cons z zs ih =>
    simp only [insertAsc]
    split
    · simp
    · split
      · next h => subst h; simp
      · simp only [List.mem_cons, ih]; tauto

theorem insertAsc_ascending {n : Nat} (x : Fin n) (l : List (Fin n)) (h : l.Pairwise (· < ·)) :
    (insertAsc x l).Pairwise (· < ·) := by
  induction l with
  | nil => simp [insertAsc]
  | cons z zs ih =>
    obtain ⟨h1, h2⟩ := List.pairwise_cons.1 h
    simp only [insertAsc]
    split
    · next hx =>
      exact List.pairwise_cons.2 ⟨fun a ha => by
        rcases List.mem_cons.1 ha with e | e
        · exact e ▸ hx
        · exact lt_trans hx (h1 a e), h⟩
    · split
      · exact h
      · next hx hne =>
        refine List.pairwise_cons.2 ⟨fun a ha => ?_, ih h2⟩
        rcases (mem_insertAsc x a zs).1 ha with e | e
        · subst e; exact lt_of_le_of_ne (not_lt.1 hx) (Ne.symm hne)
        · exact h1 a e

theorem mem_removeAsc {n : Nat} (x y : Fin n) (l : List (Fin n)) : y ∈ removeAsc x l ↔ y ≠ x ∧ y ∈ l := by
  simp [removeAsc, and_comm]

theorem removeAsc_ascending {n : Nat} (x : Fin n) (l : List (Fin n)) (h : l.Pairwise (· < ·)) :
    (removeAsc x l).Pairwise (· < ·) := h.filter _

/-! ### The groups of the store -/

theorem mem_dropGroupNo (g : GroupNo) (x : Group) (l : List Group) : x ∈ dropGroupNo g l ↔ x.number ≠ g ∧ x ∈ l := by
  simp [dropGroupNo, and_comm]

theorem mem_placeGroup (x y : Group) (l : List Group) : y ∈ placeGroup x l ↔ y = x ∨ y ∈ l := by
  induction l with
  | nil => simp [placeGroup]
  | cons z zs ih =>
    simp only [placeGroup]
    split
    · simp
    · simp only [List.mem_cons, ih]; tauto

/-- A group put in its place leaves the numbers ascending, if its number was not among them. -/
theorem placeGroup_ascending (x : Group) (l : List Group) (h : (l.map fun y => y.number).Pairwise (· < ·))
    (fresh : ∀ y ∈ l, y.number ≠ x.number) : ((placeGroup x l).map fun y => y.number).Pairwise (· < ·) := by
  induction l with
  | nil => simp [placeGroup]
  | cons z zs ih =>
    obtain ⟨h1, h2⟩ := List.pairwise_cons.1 h
    simp only [placeGroup]
    split
    · next hx =>
      refine List.pairwise_cons.2 ⟨fun a ha => ?_, h⟩
      rcases List.mem_cons.1 ha with e | e
      · exact e ▸ hx
      · exact lt_trans hx (h1 a e)
    · next hx =>
      refine List.pairwise_cons.2 ⟨fun a ha => ?_, ih h2 fun y hy => fresh y (List.mem_cons_of_mem _ hy)⟩
      obtain ⟨y, hy, rfl⟩ := List.mem_map.1 ha
      rcases (mem_placeGroup x y zs).1 hy with e | e
      · subst e; exact lt_of_le_of_ne (not_lt.1 hx) (fresh z (List.mem_cons_self ..))
      · exact h1 _ (List.mem_map.2 ⟨y, e, rfl⟩)

theorem Store.put_ascending (st : Store) (x : Group) (h : (st.groups.map fun y => y.number).Pairwise (· < ·)) :
    ((st.put x).groups.map fun y => y.number).Pairwise (· < ·) := by
  refine placeGroup_ascending x _ ?_ fun y hy => ((mem_dropGroupNo _ _ _).1 hy).1
  rw [dropGroupNo]
  exact List.Pairwise.sublist (List.filter_sublist.map _) h

theorem Store.remove_ascending (st : Store) (g : GroupNo) (h : (st.groups.map fun y => y.number).Pairwise (· < ·)) :
    ((st.remove g).groups.map fun y => y.number).Pairwise (· < ·) :=
  List.Pairwise.sublist (List.filter_sublist.map _) h

/-- The groups with `g` UNUSED have no group of number `g`, and the others as before. -/
theorem Store.find_remove (st : Store) (g h : GroupNo) :
    (st.remove g).find h = if h = g then none else st.find h := by
  simp only [Store.find, Store.remove, dropGroupNo]
  induction st.groups with
  | nil => simp
  | cons x xs ih =>
    simp only [List.filter_cons]
    by_cases hx : x.number = g <;> by_cases hh : h = g <;> by_cases he : x.number = h <;> simp_all

theorem find_placeGroup (x : Group) (l : List Group) (h : GroupNo) (fresh : ∀ y ∈ l, y.number ≠ x.number) :
    (placeGroup x l).find? (fun y => y.number == h) = if h = x.number then some x else l.find? fun y => y.number == h := by
  induction l with
  | nil => by_cases e : h = x.number <;> simp [placeGroup, e]; exact fun h' => e h'.symm
  | cons z zs ih =>
    have hz : z.number ≠ x.number := fresh z (List.mem_cons_self ..)
    have ih := ih fun y hy => fresh y (List.mem_cons_of_mem _ hy)
    simp only [placeGroup]
    split
    · by_cases e : h = x.number
      · simp [e]
      · have : (x.number == h) = false := by simpa using fun h' => e h'.symm
        simp [List.find?_cons, this, e]
    · rw [List.find?_cons, List.find?_cons, ih]
      by_cases e : h = x.number
      · have hz' : (z.number == h) = false := by rw [e]; simpa using hz
        simp [e ▸ hz', e]
      · simp [e]

/-- A group put into the store is found under its number, and every other as before. -/
theorem Store.find_put (st : Store) (x : Group) (h : GroupNo) :
    (st.put x).find h = if h = x.number then some x else st.find h := by
  have e := find_placeGroup x (dropGroupNo x.number st.groups) h fun y hy => ((mem_dropGroupNo _ _ _).1 hy).1
  have r := Store.find_remove st x.number h
  simp only [Store.find, Store.put, Store.remove] at e r ⊢
  rw [e]
  by_cases he : h = x.number
  · simp [he]
  · simp only [he, if_false] at r ⊢; exact r

/-- The member lists after a group's record changed (R92). -/
theorem mem_relist (g : GroupNo) (old new : Uplink → Bool) (lists : Vector (List GroupNo) 128) (u : Uplink) (h : GroupNo) :
    h ∈ (relist g old new lists)[u] ↔
      (h = g ∧ new u = true ∧ (old u = false ∨ g ∈ lists[u])) ∨ (h ∈ lists[u] ∧ (h ≠ g ∨ (old u = true → new u = true))) := by
  have e : (relist g old new lists)[u] = (if new u && !old u then insertAsc g lists[u]
      else if old u && !new u then removeAsc g lists[u] else lists[u]) := by
    simp only [relist, Fin.getElem_fin, Vector.getElem_ofFn, Fin.eta]
  rw [e]
  generalize lists[u] = l
  generalize new u = n
  generalize old u = o
  cases n <;> cases o <;> simp only [Bool.not_true, Bool.not_false, Bool.and_self, Bool.and_true, Bool.and_false, if_true,
    if_false, mem_insertAsc, mem_removeAsc, Bool.false_eq_true] <;>
    by_cases hg : h = g <;> simp [hg]

/-! ### Walks -/

/-- The next group of a walk lies in the list, above the position. -/
theorem nextAbove_some (position : Option GroupNo) (l : List GroupNo) (g : GroupNo) (h : nextAbove position l = some g) :
    g ∈ l ∧ ∀ p, position = some p → p < g := by
  cases position with
  | none => exact ⟨List.mem_of_head? h, fun p hp => nomatch hp⟩
  | some p =>
    refine ⟨List.mem_of_find?_eq_some h, fun q hq => ?_⟩
    cases hq
    simpa using List.find?_some h

/-- A walk has no next group where the list has none above the position. -/
theorem nextAbove_none (p : GroupNo) (l : List GroupNo) : nextAbove (some p) l = none ↔ ∀ g ∈ l, ¬ p < g := by
  simp [nextAbove]

/-! ### The table port -/

/-- A command comes in on the port: taken and run, answered NOT_READY, or not taken (R142, R143). -/
theorem State.takeCommand_cases (inPhase : Bool) (effect : State → State) (s : State) :
    (s.TakesCommand ∧ inPhase = true ∧ s.takeCommand inPhase effect = effect s) ∨
    (s.TakesCommand ∧ inPhase = false ∧ s.takeCommand inPhase effect = s.responding [0x01#8]) ∨
    ((s.pins.resetN = true ∨ s.pins.warmN = true) ∧
      s.takeCommand inPhase effect = { s with port := { s.port with transaction := .ignored } }) ∨
    ((s.port.transaction = .taken ∨ s.port.transaction = .ignored) ∧ s.takeCommand inPhase effect = s) := by
  unfold State.takeCommand
  cases hr : s.pins.resetN <;> cases hw : s.pins.warmN <;> cases ht : s.port.transaction <;> cases inPhase <;>
    simp [State.withPort, State.respond, State.responding, StatusCode.byte] <;>
    first | exact ⟨hr, hw, .inl ht⟩ | exact ⟨hr, hw, .inr ht⟩

/-! ### The Journal -/

/-- An append where nothing is held back and the ring has room is a committed record at the end. -/
theorem Journal.append_closed (r : JournalRecord) (j : Journal) (room : j.size < 64) (closed : j.episodeOpen = false) :
    j.append r = { j with committed := j.committed ++ (j.heldBack ++ [r]), heldBack := [] } := by
  have room' : j.size < Config.ringPlaces := room
  simp [Journal.append, Journal.makeRoom, room', Journal.push, closed, Journal.commitAll]

/-- An append within an open episode, short of the forced commit, is held back. -/
theorem Journal.append_open (r : JournalRecord) (j : Journal) (room : j.size < 64) (opened : j.episodeOpen = true)
    (few : j.heldBack.length < 31) : j.append r = { j with heldBack := j.heldBack ++ [r] } := by
  have room' : j.size < Config.ringPlaces := room
  have few' : j.heldBack.length + 1 < Config.forcedCommit := by simp only [Config.forcedCommit]; omega
  simp [Journal.append, Journal.makeRoom, room', Journal.push, opened, few']

/-! ### The bits of a frame -/

theorem bitsOf_length {n : Nat} (w : BitVec n) : (bitsOf w).length = n := by simp [bitsOf]

theorem bitsOf_get {n : Nat} (w : BitVec n) (i : Nat) (h : i < n) : (bitsOf w)[i]? = some (w.getMsbD i) := by
  simp [bitsOf, h]

theorem lineBits_length (cls : FrameClass) (card : CardId) (st : Statuses) : (lineBits cls card st).length = 48 :=
  bitsOf_length _

/-- The bits of a word, taken in their order, are that word. -/
theorem frameWord_bitsOf (w : BitVec 48) : frameWord (bitsOf w) = w := by
  apply BitVec.eq_of_getMsbD_eq
  intro i hi
  have e : (frameWord (bitsOf w)).getMsbD i = (BitVec.ofBoolListBE (bitsOf w)).getMsbD i := by
    unfold frameWord
    rw [BitVec.getMsbD_setWidth]
    simp [bitsOf_length]
  rw [e, BitVec.getMsbD_ofBoolListBE]
  simp [List.getD, bitsOf_get w i hi]

/-- What is taken agrees with the sync pattern exactly where no bit of it is the wrong one of 1, 0, 1, 0, … (R55). -/
theorem syncHolds_iff (taken : List Bool) : syncHolds taken = true ↔ ¬ ∃ k, k < 8 ∧ taken[k]? = some (decide (k % 2 = 1)) := by
  have pattern : ∀ k, k < 8 → (bitsOf syncPattern)[k]? = some (decide (k % 2 = 0)) := by decide
  have plen : (bitsOf syncPattern).length = 8 := by decide
  rw [syncHolds, beq_iff_eq]
  constructor
  · rintro e ⟨k, hk, hw⟩
    have hl : k < taken.length := (List.getElem?_eq_some_iff.1 hw).1
    have := congrArg (fun l => l[k]?) e
    simp only [List.getElem?_take, hk, hl, if_true, pattern k hk, hw, Option.some.injEq, decide_eq_decide] at this
    omega
  · intro no
    apply List.ext_getElem?
    intro k
    simp only [List.getElem?_take]
    by_cases hk : k < 8
    · by_cases hl : k < taken.length
      · rw [if_pos hk, if_pos hl, pattern k hk, List.getElem?_eq_getElem hl]
        have := fun h => no ⟨k, hk, (List.getElem?_eq_getElem hl).trans h⟩
        cases h : taken[k] <;> by_cases p : k % 2 = 0 <;> simp_all
      · rw [if_pos hk, if_neg hl, List.getElem?_eq_none (by omega)]
    · rw [if_neg hk]
      by_cases hl : k < taken.length
      · rw [if_pos hl, List.getElem?_eq_none (by omega)]
      · rw [if_neg hl]

/-- What the bits taken of a frame come to (R52, R55, R56): discarded for a sync mismatch, still in reception, or judged. -/
theorem State.hear_cases (aborted : Bool) (taken : List Bool) (s : State) :
    (syncHolds taken = false ∧ s.hear aborted taken = (s.setFramer (.gap 0)).framingError aborted) ∨
    (syncHolds taken = true ∧ taken.length < 48 ∧ s.hear aborted taken = s.setFramer (.receiving aborted taken)) ∨
    (syncHolds taken = true ∧ 48 ≤ taken.length ∧
      s.hear aborted taken = (s.setFramer (.gap 0)).judge aborted (frameWord (taken.take 48))) := by
  unfold State.hear
  cases h : syncHolds taken with
  | false => simp
  | true =>
    by_cases k : taken.length < Config.frameLength
    · right; left; exact ⟨rfl, k, by simp [k]⟩
    · right; right; exact ⟨rfl, Nat.le_of_not_lt k, by simp [k]; rfl⟩

/-! ### The line -/

@[simp] theorem State.takeBits_nil (s : State) : s.takeBits [] = s := rfl

@[simp] theorem State.takeBits_cons (b : Bool) (bits : List Bool) (s : State) :
    s.takeBits (b :: bits) = (s.takeBit b).takeBits bits := rfl

theorem State.takeBits_append (a b : List Bool) (s : State) : s.takeBits (a ++ b) = (s.takeBits a).takeBits b :=
  List.foldl_append

/-- What a dominant level outside a frame comes to (R53, R58). -/
theorem State.startEdge_cases (idle : Nat) (s : State) :
    (idle < 10 ∧ s.startEdge idle = s.setFramer (.gap 0)) ∨
    (10 ≤ idle ∧ s.mayStart = true ∧ s.startEdge idle = s.startFrame) ∨
    (10 ≤ idle ∧ s.mayStart = false ∧ s.startEdge idle = s.setFramer (.receiving false [])) := by
  unfold State.startEdge
  by_cases h : idle < Config.startGap
  · exact .inl ⟨h, by simp [h]⟩
  · have h' : 10 ≤ idle := Nat.le_of_not_lt h
    cases m : s.mayStart <;> simp [h, h']

/-- What a bit read back comes to (R59 to R61): the frame goes on, is completed, loses arbitration, or is aborted. -/
theorem State.readBack_cases (cls : FrameClass) (st : Statuses) (sent : Nat) (x b : Bool) (s : State)
    (own : (lineBits cls s.start.cardId st)[sent]? = some x) :
    let taken := (lineBits cls s.start.cardId st).take sent ++ [b]
    (b = x ∧ sent + 1 < 48 ∧ s.readBack cls st sent b = s.setFramer (.sending cls st (sent + 1))) ∨
    (b = x ∧ sent = 47 ∧ s.readBack cls st sent b = s.completeFrame cls) ∨
    (b ≠ x ∧ (8 ≤ sent ∧ sent < 14 ∧ x = true) ∧ s.readBack cls st sent b = s.loseArbitration cls taken) ∨
    (b ≠ x ∧ ¬ (8 ≤ sent ∧ sent < 14 ∧ x = true) ∧ s.readBack cls st sent b = s.abortFrame cls taken) := by
  have len : sent < 48 := by
    have := (List.getElem?_eq_some_iff.1 own).1
    rwa [lineBits_length] at this
  simp only [State.readBack, own]
  by_cases e : b = x
  · by_cases k : sent + 1 < Config.frameLength
    · exact .inl ⟨e, k, by simp [e, k]⟩
    · exact .inr (.inl ⟨e, by simp only [Config.frameLength] at k; omega, by simp [e, k]⟩)
  · by_cases a : 8 ≤ sent ∧ sent < 14 ∧ x = true
    · have : (inArbitration sent && x) = true := by simp [inArbitration, a]
      exact .inr (.inr (.inl ⟨e, a, by simp [e, this]⟩))
    · have : (inArbitration sent && x) = false := by
        rw [Bool.eq_false_iff]
        intro h
        simp only [inArbitration, Bool.and_eq_true, decide_eq_true_eq] at h
        exact a ⟨h.1.1, h.1.2, h.2⟩
      exact .inr (.inr (.inr ⟨e, a, by simp [e, this]⟩))

/-- Recessive bit times outside a frame count as idle (R53). -/
theorem State.takeBits_recessive (n idle : Nat) (s : State) (h : s.bus.framer = .gap idle) :
    s.takeBits (List.replicate n true) = { s with bus := { s.bus with framer := .gap (idle + n) } } := by
  induction n generalizing idle s with
  | zero => simp [← h]
  | succ n ih =>
    have e : s.takeBit true = s.setFramer (.gap (idle + 1)) := by simp [State.takeBit, h]
    rw [List.replicate_succ, State.takeBits_cons, e, ih (idle + 1) _ rfl]
    simp [State.setFramer, State.withBus, Nat.add_assoc, Nat.add_comm 1 n]

end Sys2Proof.Machine
end

