-- ==== Sys2Proof/Laws/HandsOn.lean ====
section
/-! SUPPORT. What the moves of view entries hand on, whole: a move, and entries refound in ascending order, satisfy `State.HandsOn`,
which composes along ascending entries and after a record appended first. -/

namespace Sys2Proof.Machine

variable {s t r : State} {first : List JournalBody}

/-! ### Lists -/

/-- Only one place of a list without repeats gives anything. -/
theorem filterMap_single {α β : Type} (f : α → Option β) (u : α) (l : List α) (nd : l.Nodup) (hu : u ∈ l)
    (h : ∀ v, v ≠ u → f v = none) : l.filterMap f = (f u).toList := by
  induction l with
  | nil => cases hu
  | cons x xs ih =>
    have nd' := List.nodup_cons.1 nd
    by_cases e : x = u
    · subst e
      have hn : xs.filterMap f = [] := List.filterMap_eq_nil_iff.2 fun a ha => h a fun k => nd'.1 (k ▸ ha)
      cases hf : f x <;> simp [hf, hn]
    · rw [List.filterMap_cons_none (h x e)]
      exact ih nd'.2 ((List.mem_cons.1 hu).resolve_left fun k => e k.symm)

/-- What two functions give along an ascending list, where the first gives only below the second. -/
theorem filterMap_parts {n : Nat} {β : Type} (f g h : Fin n → Option β) (l : List (Fin n)) (asc : l.Pairwise (· < ·))
    (hf : ∀ v, f v = (g v).or (h v)) (below : ∀ u v, g u ≠ none → h v ≠ none → u < v) :
    l.filterMap f = l.filterMap g ++ l.filterMap h := by
  induction l with
  | nil => rfl
  | cons x xs ih =>
    obtain ⟨lt, asc'⟩ := List.pairwise_cons.1 asc
    cases hg : g x with
    | some y =>
      have hh : h x = none := by
        by_contra k
        exact lt_irrefl x (below x x (by simp [hg]) k)
      simp [hg, hh, hf x, ih asc']
    | none =>
      cases hh : h x with
      | none => simp [hg, hh, hf x, ih asc']
      | some y =>
        have none' : ∀ a ∈ xs, g a = none := fun a ha => by
          by_contra k
          exact absurd (below a x k (by simp [hh])) (not_lt.2 (le_of_lt (lt a ha)))
        have e1 : xs.filterMap g = [] := List.filterMap_eq_nil_iff.2 none'
        rw [List.filterMap_cons_none hg, List.filterMap_cons_some hh, e1,
          List.filterMap_cons_some (b := y) (by simp [hf x, hg, hh]), ih asc', e1]
        simp

/-- A filter as a filterMap. -/
theorem filter_as_filterMap {α : Type} (p : α → Bool) (l : List α) :
    l.filter p = l.filterMap fun a => if p a = true then some a else none := by
  induction l with
  | nil => rfl
  | cons x xs ih => cases h : p x <;> simp [h, ih]

/-- The same for the members that two properties take. -/
theorem filter_parts {n : Nat} (p q c : Fin n → Bool) (l : List (Fin n)) (asc : l.Pairwise (· < ·))
    (hp : ∀ v, p v = (q v || c v)) (below : ∀ u v, q u = true → c v = true → u < v) :
    l.filter p = l.filter q ++ l.filter c := by
  simp only [filter_as_filterMap]
  refine filterMap_parts _ _ _ l asc (fun v => ?_) fun u v hu hv => ?_
  · rw [hp v]
    cases hq : q v <;> cases hc : c v <;> simp
  · exact below u v (by by_contra k; simp [k] at hu) (by by_contra k; simp [k] at hv)

/-- A property that only one place can have. -/
theorem filter_single {n : Nat} (p : Fin n → Bool) (u : Fin n) (h : ∀ v, v ≠ u → p v = false) :
    (List.finRange n).filter p = if p u = true then [u] else [] := by
  rw [filter_as_filterMap, filterMap_single _ u _ (List.nodup_finRange n) (List.mem_finRange u)
    fun v hv => by simp [h v hv]]
  cases p u <;> rfl

theorem finRange_ascending (n : Nat) : (List.finRange n).Pairwise (· < ·) := by
  exact List.pairwise_lt_finRange n

/-! ### The Journal -/

theorem satInc_toNat (c : Count16) : (satInc c).toNat = min (c.toNat + 1) 65535 := by
  unfold satInc
  split
  · next h => subst h; rfl
  · next h =>
    have := c.isLt
    have hne : c.toNat ≠ 65535 := fun k => h (BitVec.eq_of_toNat_eq k)
    rw [BitVec.toNat_add]
    simp only [BitVec.toNat_ofNat]
    omega

/-- One append, as the records held and the lost count show it. -/
theorem Journal.append_records (x : JournalRecord) (j : Journal) (size : j.size ≤ 64) :
    (j.append x).records = (j.records ++ [x]).drop (j.records.length + 1 - 64) ∧
      (j.append x).lost.toNat = min (j.lost.toNat + (j.records.length + 1 - 64)) 65535 ∧
      (j.append x).size ≤ 64 := by
  have len : j.records.length = j.size := by simp [Journal.records, Journal.size]
  have room : j.makeRoom.records = j.records.drop (j.records.length + 1 - 64) ∧
      j.makeRoom.lost.toNat = min (j.lost.toNat + (j.records.length + 1 - 64)) 65535 := by
    unfold Journal.makeRoom
    split
    · next h =>
      have h' : j.size < 64 := h
      have z : j.records.length + 1 - 64 = 0 := by omega
      have := j.lost.isLt
      refine ⟨by simp [z], ?_⟩
      rw [z]; omega
    · next h =>
      have h' : ¬ j.size < 64 := h
      have z : j.records.length + 1 - 64 = 1 := by omega
      rw [z]
      cases hc : j.committed with
      | cons a l => exact ⟨by simp [Journal.records, hc], satInc_toNat _⟩
      | nil => exact ⟨by simp [Journal.records, hc], satInc_toNat _⟩
  have app : (j.append x).records = j.makeRoom.records ++ [x] ∧ (j.append x).lost = j.makeRoom.lost := by
    unfold Journal.append
    simp only
    split
    · exact ⟨by simp [Journal.push, Journal.records], rfl⟩
    · exact ⟨by simp [Journal.push, Journal.records, Journal.commitAll], rfl⟩
  have le : j.records.length + 1 - 64 ≤ j.records.length := by omega
  refine ⟨?_, ?_, ?_⟩
  · rw [app.1, room.1, List.drop_append_of_le_length le]
  · rw [app.2, room.2]
  · have : (j.append x).size = (j.append x).records.length := by simp [Journal.records, Journal.size]
    rw [this, app.1, room.1]
    simp
    omega

theorem Journal.append_flag (x : JournalRecord) (j : Journal) : (j.append x).episodeOpen = j.episodeOpen := by
  have e : j.makeRoom.episodeOpen = j.episodeOpen := by
    unfold Journal.makeRoom
    split
    · rfl
    · split <;> rfl
  unfold Journal.append
  simp only
  split <;> exact e

/-! ### Notices -/

/-- An entry made now would open an episode: at rest with none open (R122). -/
def Engine.opens (g : Engine) : Bool := g.episode.isNone && g.atRest

/-- What making an entry does to the episode (R122, R124). -/
def Engine.openedEpisode (now : Nat) (g : Engine) : Option Episode :=
  match g.episode with
  | some e => some { e with settle := none }
  | none => if g.atRest = true then some ⟨now, [], 0, 0, none⟩ else none

theorem State.entryMade_eq (s : State) : s.entryMade =
    { s with
      engine := { s.engine with episode := s.engine.openedEpisode s.clock.now }
      journal := { s.journal with episodeOpen := s.journal.episodeOpen || s.engine.opens } } := by
  unfold State.entryMade Engine.openedEpisode Engine.opens
  cases he : s.engine.episode with
  | some e => simp [State.withEngine]
  | none =>
    cases hr : s.engine.atRest with
    | true => simp [State.withEngine, State.withJournal]
    | false =>
      obtain ⟨pins, clock, start, monitors, view, bus, sender, store, engine, lookup, port, journal, model, pending⟩ := s
      cases engine
      simp_all

/-- A view change counted (R123). -/
def Episode.counted (e : Episode) : Episode := { e with viewChanges := min (e.viewChanges + 1) 65535 }

/-- The engine after the notice that `u` left ADMITTED (R108, R122 to R124). -/
def Engine.noticeLeft (now : Nat) (u : Uplink) (g : Engine) : Engine :=
  if waitingIn g.urgent u then { g with episode := g.episode.map Episode.counted }
  else { g with
    urgent := g.urgent ++ [⟨u, none⟩]
    calm := withoutUplink g.calm u
    episode := (g.openedEpisode now).map Episode.counted }

/-- The engine after the notice that `u` entered ADMITTED (R109, R122 to R124). -/
def Engine.noticeEntered (now : Nat) (u : Uplink) (g : Engine) : Engine :=
  if waitingIn g.calm u then { g with episode := g.episode.map Episode.counted }
  else { g with
    calm := g.calm ++ [⟨u, none⟩]
    urgent := withoutUplink g.urgent u
    episode := (g.openedEpisode now).map Episode.counted }

theorem State.noticeLeft_eq (u : Uplink) (s : State) : s.noticeLeft u = { s with
    engine := s.engine.noticeLeft s.clock.now u
    journal := { s.journal with
      episodeOpen := s.journal.episodeOpen || (!waitingIn s.engine.urgent u && s.engine.opens) } } := by
  unfold State.noticeLeft Engine.noticeLeft
  cases h : waitingIn s.engine.urgent u with
  | true => simp [State.countViewChange, State.withEngine, addCount, Config.countMax]; rfl
  | false => simp [State.entryMade_eq, State.countViewChange, State.makeUrgent, State.withEngine, addCount, Config.countMax]; rfl

theorem State.noticeEntered_eq (u : Uplink) (s : State) : s.noticeEntered u = { s with
    engine := s.engine.noticeEntered s.clock.now u
    journal := { s.journal with
      episodeOpen := s.journal.episodeOpen || (!waitingIn s.engine.calm u && s.engine.opens) } } := by
  unfold State.noticeEntered Engine.noticeEntered
  cases h : waitingIn s.engine.calm u with
  | true => simp [State.countViewChange, State.withEngine, addCount, Config.countMax]; rfl
  | false => simp [State.entryMade_eq, State.countViewChange, State.makeCalm, State.withEngine, addCount, Config.countMax]; rfl

/-! ### One move -/

theorem EntryState.detail_admitted (x y : EntryState) (h : x.detail = y.detail) : x.isAdmitted = y.isAdmitted := by
  cases x <;> cases y <;> simp_all [EntryState.detail, EntryState.isAdmitted]

/-- What differs between two states that differ in one entry. -/
theorem State.lists_of_move (u : Uplink) (e : Entry) (old : EntryState) (ho : s.view.entries[u].state = old)
    (h : t.view.entries = setAt s.view.entries u e) :
    (∀ v, s.leaves t v = (decide (v = u) && (old.isAdmitted && !e.state.isAdmitted))) ∧
    (∀ v, s.enters t v = (decide (v = u) && (!old.isAdmitted && e.state.isAdmitted))) ∧
    s.viewChanges t = (if old.detail = e.state.detail then [] else [.viewChange u e.state.detail]) := by
  have other : ∀ v, v ≠ u → t.view.entries[v] = s.view.entries[v] := fun v hv => by
    rw [h]; exact setAt_other _ _ _ _ fun k => hv k.symm
  have same : t.view.entries[u] = e := by rw [h]; exact setAt_same _ _ _
  refine ⟨fun v => ?_, fun v => ?_, ?_⟩
  · by_cases k : v = u
    · subst k; rw [State.leaves, State.isAdmitted, State.isAdmitted, same, ho]; simp
    · rw [State.leaves, State.isAdmitted, State.isAdmitted, other v k, decide_eq_false k]
      cases s.view.entries[v].state.isAdmitted <;> rfl
  · by_cases k : v = u
    · subst k; rw [State.enters, State.isAdmitted, State.isAdmitted, same, ho]; simp
    · rw [State.enters, State.isAdmitted, State.isAdmitted, other v k, decide_eq_false k]
      cases s.view.entries[v].state.isAdmitted <;> rfl
  · rw [State.viewChanges, filterMap_single _ u _ (List.nodup_finRange 128) (List.mem_finRange u) fun v hv => by
      rw [other v hv, if_pos rfl]]
    rw [same, ho]
    by_cases k : old.detail = e.state.detail
    · rw [if_pos k, if_pos k]; rfl
    · rw [if_neg k, if_neg k]; rfl

/-- The worklist entries and the notices that one such difference makes. -/
theorem State.made_of_move (u : Uplink) (e : Entry) (old : EntryState) (ho : s.view.entries[u].state = old)
    (h : t.view.entries = setAt s.view.entries u e) :
    s.madeUrgent t = (if (old.isAdmitted && !e.state.isAdmitted && !waitingIn s.engine.urgent u) = true then [u] else []) ∧
    s.madeCalm t = (if (!old.isAdmitted && e.state.isAdmitted && !waitingIn s.engine.calm u) = true then [u] else []) ∧
    s.notices t = (if old.isAdmitted = e.state.isAdmitted then 0 else 1) := by
  obtain ⟨hl, he, -⟩ := State.lists_of_move u e old ho h
  refine ⟨?_, ?_, ?_⟩
  · rw [State.madeUrgent, filter_single _ u fun v hv => by rw [hl v]; simp [hv]]
    rw [hl u]; simp
  · rw [State.madeCalm, filter_single _ u fun v hv => by rw [he v]; simp [hv]]
    rw [he u]; simp
  · rw [State.notices, List.countP_eq_length_filter,
      filter_single _ u fun v hv => by rw [hl v, he v]; simp [hv]]
    rw [hl u, he u]
    cases old.isAdmitted <;> cases e.state.isAdmitted <;> simp

/-- The records of one append, as `HandsOn` states them. -/
theorem Journal.append_handsOn (x : JournalRecord) (j : Journal) (size : j.size ≤ 64) :
    (j.append x).records = (j.records ++ [x]).drop ((j.records ++ [x]).length - 64) ∧
      (j.append x).lost.toNat = min (j.lost.toNat + ((j.records ++ [x]).length - 64)) 65535 := by
  have := j.append_records x size
  simpa using ⟨this.1, this.2.1⟩

theorem Journal.keep_handsOn (j : Journal) (size : j.size ≤ 64) :
    j.records = (j.records ++ []).drop ((j.records ++ []).length - 64) ∧
      j.lost.toNat = min (j.lost.toNat + ((j.records ++ []).length - 64)) 65535 := by
  have len : (j.records ++ []).length = j.size := by simp [Journal.records, Journal.size]
  have z : (j.records ++ []).length - 64 = 0 := by omega
  have := j.lost.isLt
  rw [z]
  exact ⟨by simp, by omega⟩

theorem filter_contains_one (u : Uplink) (q : List WorkEntry) :
    (q.filter fun w => !([u].contains w.uplink)) = withoutUplink q u := by
  unfold withoutUplink
  congr 1
  funext w
  simp [bne, List.contains, List.elem]
  cases h : w.uplink == u <;> simp_all

theorem filter_contains_none (q : List WorkEntry) : (q.filter fun w => !(([] : List Uplink).contains w.uplink)) = q := by
  simp

/-- Whether an episode is open makes no difference to the records held after an append, nor to the lost count. -/
theorem Journal.append_anyFlag (b : Bool) (x : JournalRecord) (j : Journal) (size : j.size ≤ 64) :
    (({ j with episodeOpen := b } : Journal).append x).records = (j.append x).records ∧
      (({ j with episodeOpen := b } : Journal).append x).lost.toNat = (j.append x).lost.toNat := by
  have h1 := Journal.append_records x { j with episodeOpen := b } size
  have h2 := Journal.append_records x j size
  exact ⟨h1.1.trans h2.1.symm, h1.2.1.trans h2.2.1.symm⟩

/-- The uplink leaves: its drop, its notice and its record, in whichever order the last two come (R35). -/
theorem State.handLeft_parts (u : Uplink) (d : EntryDetail) (s : State) :
    (s.handLeft u d).engine = s.engine.noticeLeft s.clock.now u ∧
    (s.handLeft u d).lookup.dropUplinks = insertAsc u s.lookup.dropUplinks ∧
    (s.handLeft u d).journal.episodeOpen = (s.journal.episodeOpen || (!waitingIn s.engine.urgent u && s.engine.opens)) ∧
    (s.journal.size ≤ 64 → (s.handLeft u d).journal.records = (s.journal.append ⟨.viewChange u d, s.clock.timeBase⟩).records ∧
      (s.handLeft u d).journal.lost.toNat = (s.journal.append ⟨.viewChange u d, s.clock.timeBase⟩).lost.toNat) := by
  unfold State.handLeft
  simp only
  split <;> rw [State.noticeLeft_eq]
  · exact ⟨rfl, rfl, Journal.append_flag _ _, fun size => Journal.append_anyFlag _ _ _ size⟩
  · exact ⟨rfl, rfl, congrArg (· || _) (Journal.append_flag _ _), fun _ => ⟨rfl, rfl⟩⟩

/-- The uplink enters: its notice and its record, in whichever order (R36). -/
theorem State.handEntered_parts (u : Uplink) (s : State) :
    (s.handEntered u).engine = s.engine.noticeEntered s.clock.now u ∧
    (s.handEntered u).lookup = s.lookup ∧
    (s.handEntered u).journal.episodeOpen = (s.journal.episodeOpen || (!waitingIn s.engine.calm u && s.engine.opens)) ∧
    (s.journal.size ≤ 64 →
      (s.handEntered u).journal.records = (s.journal.append ⟨.viewChange u .admitted, s.clock.timeBase⟩).records ∧
      (s.handEntered u).journal.lost.toNat = (s.journal.append ⟨.viewChange u .admitted, s.clock.timeBase⟩).lost.toNat) := by
  unfold State.handEntered
  simp only
  split <;> rw [State.noticeEntered_eq]
  · exact ⟨rfl, rfl, Journal.append_flag _ _, fun size => Journal.append_anyFlag _ _ _ size⟩
  · exact ⟨rfl, rfl, congrArg (· || _) (Journal.append_flag _ _), fun _ => ⟨rfl, rfl⟩⟩

theorem waitingIn_atRest (g : Engine) (u : Uplink) (h : waitingIn g.urgent u = true ∨ waitingIn g.calm u = true) :
    g.atRest = false := by
  have one : ∀ q : List WorkEntry, waitingIn q u = true → q.length ≠ 0 := fun q hq k => by
    rw [List.length_eq_zero_iff.1 k] at hq; cases hq
  have : g.worklistLength ≠ 0 := by
    unfold Engine.worklistLength
    rcases h with h | h
    · have := one _ h; omega
    · have := one _ h; omega
  simp [Engine.atRest, this]

/-- The episode after one notice, as `episodeAfter` states it. -/
theorem Engine.episode_after_notice (now : Nat) (g : Engine) (made : Bool) (h : made = false → g.atRest = false) :
    (if made = true then (g.openedEpisode now).map Episode.counted else g.episode.map Episode.counted) =
      match g.episode with
      | none => if g.atRest = true then some ⟨now, [], 0, 1, none⟩ else none
      | some e => some { e with viewChanges := min (e.viewChanges + 1) 65535, settle := if made = false then e.settle else none } := by
  unfold Engine.openedEpisode Episode.counted
  cases he : g.episode with
  | some e => cases made <;> simp
  | none =>
    cases hr : g.atRest with
    | false => cases made <;> simp
    | true =>
      cases made with
      | false => simp [hr] at h
      | true => simp

/-- A move hands on the record, the notice and the drop of its entry, and nothing else. -/
theorem State.moveEntry_handsOn (u : Uplink) (e : Entry) (s : State) : s.HandsOn [] (s.moveEntry u e) := by
  have hent := State.moveEntry_entries u e s
  obtain ⟨old, ho⟩ : ∃ x, s.view.entries[u].state = x := ⟨_, rfl⟩
  obtain ⟨hl, -, hv⟩ := State.lists_of_move u e old ho hent
  obtain ⟨hu, hc, hn⟩ := State.made_of_move u e old ho hent
  have hclock := (State.moveEntry_same u e s).clock
  have def_ : s.moveEntry u e = (s.withView { s.view with entries := setAt s.view.entries u e }).handChange u old e.state := by
    rw [State.moveEntry, ho]
  generalize s.moveEntry u e = t at *
  generalize e.state = new at *
  by_cases hd : old.detail = new.detail
  · have ha := EntryState.detail_admitted _ _ hd
    rw [State.handChange, if_pos hd] at def_
    rw [ha] at hl hu hc hn
    rw [if_pos hd] at hv
    rw [if_pos rfl] at hn
    have hu' : s.madeUrgent t = [] := by rw [hu]; cases new.isAdmitted <;> rfl
    have hc' : s.madeCalm t = [] := by rw [hc]; cases new.isAdmitted <;> rfl
    constructor
    case records =>
      intro size
      rw [hv, def_]
      exact s.journal.keep_handsOn size
    case drops =>
      intro v; rw [hl v, def_]
      cases new.isAdmitted <;> simp
    case urgent => rw [hu', hc', def_]; simp
    case calm => rw [hu', hc', def_]; simp
    case episode =>
      rw [State.episodeAfter, hn, def_]
      cases h : s.engine.episode <;> simp [h]
    case flag => rw [hn, def_]; simp
  · rw [State.handChange, if_neg hd] at def_
    rw [if_neg hd] at hv
    have rec_ : ∀ j : Journal, j.size ≤ 64 → t.journal.records = (j.append ⟨.viewChange u new.detail, s.clock.timeBase⟩).records →
        t.journal.lost.toNat = (j.append ⟨.viewChange u new.detail, s.clock.timeBase⟩).lost.toNat → j = s.journal →
        let all := s.journal.records ++ ([] ++ s.viewChanges t).map fun b => ⟨b, t.clock.timeBase⟩
        t.journal.records = all.drop (all.length - 64) ∧
          t.journal.lost.toNat = min (s.journal.lost.toNat + (all.length - 64)) 65535 := by
      rintro j size hr hl' rfl
      rw [hv, hclock, hr, hl']
      exact Journal.append_handsOn _ _ size
    by_cases h1 : old.isAdmitted = true
    · rw [if_pos h1] at def_
      have h2 : new.isAdmitted = false := by
        cases old <;> cases new <;> simp_all [EntryState.detail, EntryState.isAdmitted]
      obtain ⟨pe, pl, pf, pr⟩ := State.handLeft_parts u new.detail (s.withView { s.view with entries := setAt s.view.entries u e })
      rw [← def_] at pe pl pf pr
      rw [h1, h2] at hl hu hc hn
      have hc' : s.madeCalm t = [] := by rw [hc]; rfl
      have hn' : s.notices t = 1 := by rw [hn]; rfl
      constructor
      case records => exact fun size => rec_ _ size (pr size).1 (pr size).2 rfl
      case drops => intro v; rw [pl, mem_insertAsc, hl v]; simp [or_comm]
      case urgent =>
        rw [hc', hu, pe]
        cases hw : waitingIn s.engine.urgent u <;> simp [Engine.noticeLeft, hw]
      case calm =>
        rw [hc', hu, pe]
        cases hw : waitingIn s.engine.urgent u
        · simpa [Engine.noticeLeft, hw] using (filter_contains_one u s.engine.calm).symm
        · simp [Engine.noticeLeft, hw]
      case episode =>
        have h := Engine.episode_after_notice s.clock.now s.engine (!waitingIn s.engine.urgent u) fun k =>
          waitingIn_atRest _ u (.inl (by simpa using k))
        have e1 : t.engine.episode = if (!waitingIn s.engine.urgent u) = true
            then (s.engine.openedEpisode s.clock.now).map Episode.counted else s.engine.episode.map Episode.counted := by
          rw [pe]
          cases hw : waitingIn s.engine.urgent u <;> simp [Engine.noticeLeft, hw]
        rw [e1, h, State.episodeAfter, hn', hc', hu, hclock]
        cases s.engine.episode with
        | none => simp
        | some x => cases waitingIn s.engine.urgent u <;> simp
      case flag =>
        rw [pf, hn']
        cases hw : waitingIn s.engine.urgent u
        · simp [Engine.opens, hw]
        · simp [Engine.opens, waitingIn_atRest _ u (.inl hw)]
    · rw [if_neg h1] at def_
      rw [Bool.not_eq_true] at h1
      by_cases h2 : new.isAdmitted = true
      · rw [if_pos h2] at def_
        have hnew : .admitted = new.detail := by cases new <;> simp_all [EntryState.isAdmitted, EntryState.detail]
        obtain ⟨pe, pl, pf, pr⟩ := State.handEntered_parts u (s.withView { s.view with entries := setAt s.view.entries u e })
        rw [← def_] at pe pl pf pr
        rw [h1, h2] at hl hu hc hn
        have hu' : s.madeUrgent t = [] := by rw [hu]; rfl
        have hn' : s.notices t = 1 := by rw [hn]; rfl
        constructor
        case records => exact fun size => rec_ _ size (hnew ▸ (pr size).1) (hnew ▸ (pr size).2) rfl
        case drops => intro v; rw [pl, hl v]; simp
        case calm =>
          rw [hu', hc, pe]
          cases hw : waitingIn s.engine.calm u <;> simp [Engine.noticeEntered, hw]
        case urgent =>
          rw [hu', hc, pe]
          cases hw : waitingIn s.engine.calm u
          · simpa [Engine.noticeEntered, hw] using (filter_contains_one u s.engine.urgent).symm
          · simp [Engine.noticeEntered, hw]
        case episode =>
          have h := Engine.episode_after_notice s.clock.now s.engine (!waitingIn s.engine.calm u) fun k =>
            waitingIn_atRest _ u (.inr (by simpa using k))
          have e1 : t.engine.episode = if (!waitingIn s.engine.calm u) = true
              then (s.engine.openedEpisode s.clock.now).map Episode.counted else s.engine.episode.map Episode.counted := by
            rw [pe]
            cases hw : waitingIn s.engine.calm u <;> simp [Engine.noticeEntered, hw]
          rw [e1, h, State.episodeAfter, hn', hu', hc, hclock]
          cases s.engine.episode with
          | none => simp
          | some x => cases waitingIn s.engine.calm u <;> simp
        case flag =>
          rw [pf, hn']
          cases hw : waitingIn s.engine.calm u
          · simp [Engine.opens, hw]
          · simp [Engine.opens, waitingIn_atRest _ u (.inr hw)]
      · rw [if_neg h2] at def_
        rw [Bool.not_eq_true] at h2
        rw [h1, h2] at hl hu hc hn
        have hc' : s.madeCalm t = [] := by rw [hc]; rfl
        have hu' : s.madeUrgent t = [] := by rw [hu]; rfl
        have hn' : s.notices t = 0 := by rw [hn]; rfl
        constructor
        case records => exact fun size => rec_ _ size (by rw [def_]; rfl) (by rw [def_]; rfl) rfl
        case drops => intro v; rw [hl v, def_]; simp [State.append]
        case urgent => rw [hc', hu', def_]; simp [State.append]
        case calm => rw [hc', hu', def_]; simp [State.append]
        case episode => rw [State.episodeAfter, hn', def_]; cases h : s.engine.episode <;> simp [State.append, h]
        case flag => rw [hn', def_]; simpa [State.append] using Journal.append_flag _ _

/-! ### Several moves -/

theorem State.HandsOn.refl (s : State) : s.HandsOn [] s := by
  have hv : s.viewChanges s = [] := List.filterMap_eq_nil_iff.2 fun u _ => if_pos rfl
  have hl : ∀ u, s.leaves s u = false := fun u => by simp [State.leaves]
  have he : ∀ u, s.enters s u = false := fun u => by simp [State.enters]
  have hu : s.madeUrgent s = [] := by simp [State.madeUrgent, hl]
  have hc : s.madeCalm s = [] := by simp [State.madeCalm, he]
  have hn : s.notices s = 0 := by simp [State.notices, hl, he]
  constructor
  case records => intro size; rw [hv]; exact s.journal.keep_handsOn size
  case drops => intro u; simp [hl u]
  case urgent => rw [hu, hc]; simp
  case calm => rw [hu, hc]; simp
  case episode => rw [State.episodeAfter, hn]; cases h : s.engine.episode <;> simp
  case flag => rw [hn]; simp

/-- What an event hands on depends on its first state by the entries, the engine, the drops and the Journal alone. -/
theorem State.HandsOn.congr_first (h : s.HandsOn first t) (hv : r.view.entries = s.view.entries) (hg : r.engine = s.engine)
    (hl : r.lookup.dropUplinks = s.lookup.dropUplinks) (hj : r.journal = s.journal) : r.HandsOn first t := by
  have a1 : ∀ u, r.isAdmitted u = s.isAdmitted u := fun u => by simp only [State.isAdmitted, hv]
  have l1 : ∀ u, r.leaves t u = s.leaves t u := fun u => by simp only [State.leaves, a1]
  have e1 : ∀ u, r.enters t u = s.enters t u := fun u => by simp only [State.enters, a1]
  have v1 : r.viewChanges t = s.viewChanges t := by simp only [State.viewChanges, hv]
  have u1 : r.madeUrgent t = s.madeUrgent t := by simp only [State.madeUrgent, l1, hg]
  have c1 : r.madeCalm t = s.madeCalm t := by simp only [State.madeCalm, e1, hg]
  have n1 : r.notices t = s.notices t := by simp only [State.notices, l1, e1]
  have p1 : r.episodeAfter t = s.episodeAfter t := by simp only [State.episodeAfter, hg, n1, u1, c1]
  exact ⟨by rw [v1, hj]; exact h.records, fun u => by rw [hl, l1]; exact h.drops u, by rw [u1, c1, hg]; exact h.urgent,
    by rw [u1, c1, hg]; exact h.calm, by rw [p1]; exact h.episode, by rw [hj, hg, n1]; exact h.flag⟩

/-- And on its last state by these and the clock. -/
theorem State.HandsOn.congr_last (h : s.HandsOn first t) (hv : r.view.entries = t.view.entries) (hg : r.engine = t.engine)
    (hl : r.lookup.dropUplinks = t.lookup.dropUplinks) (hj : r.journal = t.journal) (hc : r.clock.timeBase = t.clock.timeBase)
    (hn : r.clock.now = t.clock.now) : s.HandsOn first r := by
  have a1 : ∀ u, r.isAdmitted u = t.isAdmitted u := fun u => by simp only [State.isAdmitted, hv]
  have l1 : ∀ u, s.leaves r u = s.leaves t u := fun u => by simp only [State.leaves, a1]
  have e1 : ∀ u, s.enters r u = s.enters t u := fun u => by simp only [State.enters, a1]
  have v1 : s.viewChanges r = s.viewChanges t := by simp only [State.viewChanges, hv]
  have u1 : s.madeUrgent r = s.madeUrgent t := by simp only [State.madeUrgent, l1]
  have c1 : s.madeCalm r = s.madeCalm t := by simp only [State.madeCalm, e1]
  have n1 : s.notices r = s.notices t := by simp only [State.notices, l1, e1]
  have p1 : s.episodeAfter r = s.episodeAfter t := by simp only [State.episodeAfter, n1, u1, c1, hn]
  exact ⟨by rw [v1, hj, hc]; exact h.records, fun u => by rw [hl, l1]; exact h.drops u, by rw [u1, c1, hg]; exact h.urgent,
    by rw [u1, c1, hg]; exact h.calm, by rw [p1, hg]; exact h.episode, by rw [hj, n1]; exact h.flag⟩

/-- Two runs of records, one after the other. -/
theorem records_trans (j k l : Journal) (xs ys : List JournalRecord) (_size : j.size ≤ 64)
    (h1 : k.records = (j.records ++ xs).drop ((j.records ++ xs).length - 64))
    (l1 : k.lost.toNat = min (j.lost.toNat + ((j.records ++ xs).length - 64)) 65535)
    (h2 : k.size ≤ 64 → l.records = (k.records ++ ys).drop ((k.records ++ ys).length - 64) ∧
      l.lost.toNat = min (k.lost.toNat + ((k.records ++ ys).length - 64)) 65535) :
    l.records = (j.records ++ (xs ++ ys)).drop ((j.records ++ (xs ++ ys)).length - 64) ∧
      l.lost.toNat = min (j.lost.toNat + ((j.records ++ (xs ++ ys)).length - 64)) 65535 := by
  have len : k.size = k.records.length := by simp [Journal.records, Journal.size]
  have kl : k.records.length = (j.records ++ xs).length - ((j.records ++ xs).length - 64) := by rw [h1, List.length_drop]
  obtain ⟨h2, l2⟩ := h2 (by rw [len, kl]; omega)
  have le : (j.records ++ xs).length - 64 ≤ (j.records ++ xs).length := by omega
  rw [← List.append_assoc]
  constructor
  · rw [h2]
    simp only [List.length_append] at kl ⊢
    rw [h1, ← List.drop_append_of_le_length le, List.drop_drop]
    congr 1
    simp only [List.length_append, List.length_drop] at *
    omega
  · rw [l2, l1]
    simp only [List.length_append] at *
    omega

/-- One record appended first. -/
theorem State.HandsOn.after_append (b : JournalBody) (h : (s.append b).HandsOn first t)
    (hc : t.clock.timeBase = s.clock.timeBase) : s.HandsOn (b :: first) t := by
  have e : s.viewChanges t = (s.append b).viewChanges t := rfl
  constructor
  case records =>
    intro size
    have one := Journal.append_handsOn ⟨b, s.clock.timeBase⟩ s.journal size
    have two := records_trans s.journal (s.append b).journal t.journal _ _ size one.1 one.2 h.records
    rw [e]
    simpa [hc] using two
  case drops => exact h.drops
  case urgent => exact h.urgent
  case calm => exact h.calm
  case episode => exact h.episode
  case flag =>
    have f := h.flag
    rw [show (s.append b).journal.episodeOpen = s.journal.episodeOpen from Journal.append_flag _ _] at f
    exact f

/-- A queue in which the uplink is neither taken out nor put in holds it as before. -/
theorem waitingIn_kept (q : List WorkEntry) (out made : List Uplink) (u : Uplink) (ho : u ∉ out) (hm : u ∉ made) :
    waitingIn ((q.filter fun w => !out.contains w.uplink) ++ made.map fun v => ⟨v, none⟩) u = waitingIn q u := by
  unfold waitingIn
  rw [List.any_append, List.any_filter]
  have e2 : ((made.map fun v => (⟨v, none⟩ : WorkEntry)).any fun w => w.uplink == u) = false := by
    rw [List.any_eq_false]
    intro w hw
    obtain ⟨v, hv, rfl⟩ := List.mem_map.1 hw
    simpa using fun k : v = u => hm (k ▸ hv)
  rw [e2, Bool.or_false]
  congr 1
  funext w
  by_cases k : w.uplink = u
  · subst k; simp [ho]
  · simp [k]

/-- Without a notice no entry is made. -/
theorem State.made_of_no_notice (h : s.notices t = 0) : s.madeUrgent t = [] ∧ s.madeCalm t = [] := by
  have no : ∀ u, (s.leaves t u || s.enters t u) = false := fun u => by
    have := List.countP_eq_zero.1 h u (List.mem_finRange u)
    simpa using this
  have no' : ∀ u, s.leaves t u = false ∧ s.enters t u = false := fun u => by simpa using no u
  exact ⟨by simp [State.madeUrgent, fun u => (no' u).1], by simp [State.madeCalm, fun u => (no' u).2]⟩

/-- Two events whose changed entries come in ascending order, the second appending no record of its own first, hand on as one. -/
theorem State.HandsOn.trans (a : s.HandsOn first t) (b : t.HandsOn [] r)
    (below : ∀ u v : Uplink, s.view.entries[u].state ≠ t.view.entries[u].state →
      t.view.entries[v].state ≠ r.view.entries[v].state → u < v)
    (hjob : t.engine.job = s.engine.job) (hbuild : t.engine.build = s.engine.build) (hsweep : t.engine.sweep = s.engine.sweep)
    (htime : r.clock.timeBase = t.clock.timeBase) (hnow : r.clock.now = t.clock.now) : s.HandsOn first r := by
  have one : ∀ u : Uplink, s.view.entries[u].state = t.view.entries[u].state ∨
      t.view.entries[u].state = r.view.entries[u].state := fun u => by
    by_contra k
    rw [not_or] at k
    exact lt_irrefl u (below u u k.1 k.2)
  have adm : ∀ u, s.isAdmitted u = t.isAdmitted u ∨ t.isAdmitted u = r.isAdmitted u := fun u =>
    (one u).imp (fun k => by rw [State.isAdmitted, State.isAdmitted, k]) (fun k => by rw [State.isAdmitted, State.isAdmitted, k])
  have nl : ∀ u, s.view.entries[u].state = t.view.entries[u].state → s.leaves t u = false := fun u k => by
    rw [State.leaves, State.isAdmitted, State.isAdmitted, k]; simp
  have ne : ∀ u, s.view.entries[u].state = t.view.entries[u].state → s.enters t u = false := fun u k => by
    rw [State.enters, State.isAdmitted, State.isAdmitted, k]; simp
  have nl' : ∀ u, t.view.entries[u].state = r.view.entries[u].state → t.leaves r u = false := fun u k => by
    rw [State.leaves, State.isAdmitted, State.isAdmitted, k]; simp
  have ne' : ∀ u, t.view.entries[u].state = r.view.entries[u].state → t.enters r u = false := fun u k => by
    rw [State.enters, State.isAdmitted, State.isAdmitted, k]; simp
  have cl : ∀ u, s.leaves r u = (s.leaves t u || t.leaves r u) := fun u => by
    rcases adm u with k | k <;> simp only [State.leaves, k] <;> cases s.isAdmitted u <;> cases t.isAdmitted u <;>
      cases r.isAdmitted u <;> simp_all
  have ce : ∀ u, s.enters r u = (s.enters t u || t.enters r u) := fun u => by
    rcases adm u with k | k <;> simp only [State.enters, k] <;> cases s.isAdmitted u <;> cases t.isAdmitted u <;>
      cases r.isAdmitted u <;> simp_all
  -- a change in the second event leaves the uplink's places in the queues as they were
  have late : ∀ u, (t.leaves r u = true ∨ t.enters r u = true) → s.leaves t u = false ∧ s.enters t u = false := fun u k => by
    have : t.view.entries[u].state ≠ r.view.entries[u].state := fun e => by
      rcases k with k | k
      · rw [nl' u e] at k; cases k
      · rw [ne' u e] at k; cases k
    have e : s.view.entries[u].state = t.view.entries[u].state := (one u).resolve_right this
    exact ⟨nl u e, ne u e⟩
  have wu : ∀ u, (t.leaves r u = true ∨ t.enters r u = true) → waitingIn t.engine.urgent u = waitingIn s.engine.urgent u :=
    fun u k => by
      obtain ⟨k1, k2⟩ := late u k
      rw [a.urgent]
      exact waitingIn_kept _ _ _ _ (by simp [State.madeCalm, k2]) (by simp [State.madeUrgent, k1])
  have wc : ∀ u, (t.leaves r u = true ∨ t.enters r u = true) → waitingIn t.engine.calm u = waitingIn s.engine.calm u :=
    fun u k => by
      obtain ⟨k1, k2⟩ := late u k
      rw [a.calm]
      exact waitingIn_kept _ _ _ _ (by simp [State.madeUrgent, k1]) (by simp [State.madeCalm, k2])
  have bl : ∀ u v, s.leaves t u = true ∨ s.enters t u = true → t.leaves r v = true ∨ t.enters r v = true → u < v :=
    fun u v hu hv => below u v
      (fun e => by rcases hu with k | k <;> simp [nl u e, ne u e] at k)
      (fun e => by rcases hv with k | k <;> simp [nl' v e, ne' v e] at k)
  have mu : s.madeUrgent r = s.madeUrgent t ++ t.madeUrgent r := by
    refine filter_parts _ _ _ _ (finRange_ascending 128) (fun u => ?_) fun u v hu hv => bl u v ?_ ?_
    · rw [cl u]
      cases k : t.leaves r u
      · simp
      · rw [wu u (.inl k), (late u (.inl k)).1]; simp
    · exact .inl (by simp only [Bool.and_eq_true] at hu; exact hu.1)
    · exact .inl (by simp only [Bool.and_eq_true] at hv; exact hv.1)
  have mc : s.madeCalm r = s.madeCalm t ++ t.madeCalm r := by
    refine filter_parts _ _ _ _ (finRange_ascending 128) (fun u => ?_) fun u v hu hv => bl u v ?_ ?_
    · rw [ce u]
      cases k : t.enters r u
      · simp
      · rw [wc u (.inr k), (late u (.inr k)).2]; simp
    · exact .inr (by simp only [Bool.and_eq_true] at hu; exact hu.1)
    · exact .inr (by simp only [Bool.and_eq_true] at hv; exact hv.1)
  have nn : s.notices r = s.notices t + t.notices r := by
    simp only [State.notices, List.countP_eq_length_filter]
    rw [← List.length_append]
    congr 1
    refine filter_parts _ _ _ _ (finRange_ascending 128) (fun u => ?_) fun u v hu hv => bl u v ?_ ?_
    · rw [cl u, ce u]
      cases s.leaves t u <;> cases s.enters t u <;> cases t.leaves r u <;> cases t.enters r u <;> rfl
    · simpa using hu
    · simpa using hv
  have vc : s.viewChanges r = s.viewChanges t ++ t.viewChanges r := by
    refine filterMap_parts _ _ _ _ (finRange_ascending 128) (fun u => ?_) fun u v hu hv => below u v ?_ ?_
    · rcases one u with k | k
      · simp only [k, if_true, Option.none_or]
      · simp only [k, if_true, Option.or_none]
    · exact fun e => hu (if_pos (by rw [e]))
    · exact fun e => hv (if_pos (by rw [e]))
  -- the engine comes to rest by no notice, and without a notice it rests as before
  have rest : t.engine.atRest = true → s.engine.atRest = true := fun k => by
    simp only [Engine.atRest, Engine.worklistLength, hjob, hbuild, hsweep, Bool.and_eq_true, beq_iff_eq,
      Nat.add_eq_zero_iff, List.length_eq_zero_iff] at k ⊢
    obtain ⟨k1, ⟨⟨k2, k3⟩, k4⟩, k5⟩ := k
    rw [a.urgent, List.append_eq_nil_iff, List.map_eq_nil_iff] at k2
    rw [a.calm, List.append_eq_nil_iff, List.map_eq_nil_iff] at k3
    rw [k3.2] at k2
    rw [k2.2] at k3
    exact ⟨k1, ⟨⟨by simpa using k2.1, by simpa using k3.1⟩, k4⟩, k5⟩
  have quiet : s.notices t = 0 → t.engine.atRest = s.engine.atRest := fun k => by
    obtain ⟨u0, c0⟩ := State.made_of_no_notice k
    simp only [Engine.atRest, Engine.worklistLength, hjob, hbuild, hsweep, a.urgent, a.calm, u0, c0]
    simp
  constructor
  case records =>
    intro size
    have ha := a.records size
    have two := records_trans s.journal t.journal r.journal _ _ size ha.1 ha.2 fun k => b.records k
    rw [vc]
    simpa [htime, List.map_append, List.append_assoc] using two
  case drops => intro u; rw [b.drops u, a.drops u, cl u]; simp [or_assoc]
  case urgent =>
    rw [b.urgent, a.urgent, mu, mc, List.filter_append, List.filter_filter, List.map_append, ← List.append_assoc]
    congr 1
    congr 1
    · congr 1; funext w; simp [Bool.and_comm]
    · rw [List.filter_eq_self]
      intro w hw
      obtain ⟨u, hu, rfl⟩ := List.mem_map.1 hw
      have : s.leaves t u = true := by
        have := (List.mem_filter.1 hu).2
        simp only [Bool.and_eq_true] at this; exact this.1
      have no : t.enters r u = false := by
        by_contra k
        rw [Bool.not_eq_false] at k
        exact absurd this (by simp [(late u (.inr k)).1])
      simp [State.madeCalm, no]
  case calm =>
    rw [b.calm, a.calm, mu, mc, List.filter_append, List.filter_filter, List.map_append, ← List.append_assoc]
    congr 1
    congr 1
    · congr 1; funext w; simp [Bool.and_comm]
    · rw [List.filter_eq_self]
      intro w hw
      obtain ⟨u, hu, rfl⟩ := List.mem_map.1 hw
      have : s.enters t u = true := by
        have := (List.mem_filter.1 hu).2
        simp only [Bool.and_eq_true] at this; exact this.1
      have no : t.leaves r u = false := by
        by_contra k
        rw [Bool.not_eq_false] at k
        exact absurd this (by simp [(late u (.inl k)).2])
      simp [State.madeUrgent, no]
  case episode =>
    rw [b.episode, State.episodeAfter, State.episodeAfter, a.episode, State.episodeAfter, nn, mu, mc, hnow]
    by_cases n0 : s.notices t = 0
    · obtain ⟨u0, c0⟩ := State.made_of_no_notice n0
      rw [quiet n0, n0, u0, c0]
      cases s.engine.episode <;> simp
    · cases he : s.engine.episode with
      | none =>
        by_cases hr : s.engine.atRest = true
        · have : s.notices r ≤ 128 := (List.countP_le_length).trans (by simp)
          rw [nn] at this
          simp only [hr, n0, ne_eq, not_false_eq_true, and_self, if_true]
          by_cases m0 : t.notices r = 0
          · simp [m0, n0]
          · simp [m0, n0]; omega
        · have ht : t.engine.atRest = false := by
            by_contra k; exact hr (rest (by simpa using k))
          simp [hr, ht]
      | some e =>
        by_cases m0 : t.notices r = 0
        · obtain ⟨u0, c0⟩ := State.made_of_no_notice m0
          simp [n0, m0, u0, c0]
        · simp only [n0, m0, if_false, Nat.add_eq_zero_iff, false_and, List.append_eq_nil_iff]
          congr 2
          · omega
          · by_cases k1 : s.madeUrgent t = [] <;> by_cases k2 : s.madeCalm t = [] <;>
              by_cases k3 : t.madeUrgent r = [] <;> by_cases k4 : t.madeCalm r = [] <;> simp [k1, k2, k3, k4]
  case flag =>
    rw [b.flag, a.flag, nn]
    by_cases n0 : s.notices t = 0
    · have e : t.engine.episode.isNone = s.engine.episode.isNone := by
        rw [a.episode, State.episodeAfter, n0]; cases s.engine.episode <;> simp
      rw [e, quiet n0, n0]; simp
    · cases he : s.engine.episode with
      | none =>
        cases hr : s.engine.atRest with
        | true => simp [n0]
        | false =>
          have ht : t.engine.atRest = false := by
            by_contra k; rw [rest (by simpa using k)] at hr; cases hr
          simp [ht]
      | some e =>
        have : t.engine.episode.isNone = false := by rw [a.episode, State.episodeAfter, he]; simp [n0]
        simp [this]

/-- The uplinks refound, in ascending order, hand on as one event. -/
theorem State.refindAll_handsOn (us : List Uplink) (asc : us.Pairwise (· < ·)) (s : State) : s.HandsOn [] (s.refindAll us) := by
  induction us generalizing s with
  | nil => exact .refl s
  | cons u us ih =>
    obtain ⟨lt, asc'⟩ := List.pairwise_cons.1 asc
    have same := s.refind_same u
    have later := (s.refind u).refindAll_same us
    refine State.HandsOn.trans (State.moveEntry_handsOn u _ s) (ih asc' (s.refind u)) (fun v w hv hw => ?_) same.job same.build
      same.sweep (congrArg Clock.timeBase later.clock) (congrArg Clock.now later.clock)
    have ev : v = u := by
      by_contra k
      apply hv
      rw [State.moveEntry_entries]
      exact congrArg Entry.state (setAt_other _ _ _ _ fun e => k e.symm).symm
    have mw : w ∈ us := by
      by_contra k
      exact hw (congrArg Entry.state (State.refindAll_other us (s.refind u) w k)).symm
    exact ev ▸ lt w mw

theorem uplinksOf_ascending (c : CardId) : (uplinksOf c).Pairwise (· < ·) := by
  rw [uplinksOf, List.pairwise_map]
  exact (finRange_ascending 8).imp fun {a b} h => by
    rw [Fin.lt_def] at h ⊢
    simp only [uplinkOf]
    omega

theorem State.remoteUplinks_ascending (s : State) : s.remoteUplinks.Pairwise (· < ·) := (finRange_ascending 128).filter _

end Sys2Proof.Machine
end

