-- ==== Sys2Proof/Tests/Slice0.lean ====
section
/-! SUPPORT. Tests on small states, their expected results from the worked cases and tables of spec/, and for every statement with
hypotheses a witness: a concrete state and operands that meet them. -/

namespace Sys2Proof.Tests

open Sys2Proof.Machine

/-! ### States to start from -/

/-- The record of section 6.6.1: A, uplink 10, weight 3; B, uplink 29, weight 2; C, uplink 48, weight 1. -/
def recordABC : Record :=
  ⟨#v[some ⟨10, .t0, 3⟩, some ⟨29, .t0, 2⟩, some ⟨48, .t0, 1⟩, none, none, none, none, none], 1, none, true⟩

/-- The group of section 8.3, in TIER0 with the home fill of its three members. -/
def groupABC : Group where
  number := 12
  record := recordABC
  mode := .tier0
  tier := .tier .t0
  set := .members [0, 1, 2]
  spread := homeFill recordABC.weight [0, 1, 2]

/-- Eight ports reported UP. -/
def allUp : Statuses := Vector.replicate 8 .up

/-- Card 3 in SERVE with its ports UP, cards 1 and 6 PRESENT, group 12 installed, a release of group 7 waiting. -/
def serving : State := { State.reset with
  pins := ⟨Vector.replicate 8 true, false, false⟩
  clock := ⟨1000, 77#32, some 100000⟩
  start := ⟨.serve, .cold, 3, Settings.default⟩
  monitors := Vector.replicate 8 ⟨.up, 0, false, 0#16, 0#16⟩
  view := { View.reset with
    entries := Vector.ofFn fun u =>
      if cardOf u = 1 ∨ cardOf u = 3 ∨ cardOf u = 6 then ⟨.admitted, false⟩ else ⟨.dark .unheard, true⟩
    cards := Vector.ofFn fun c =>
      if c = 3 then ⟨.self, none, false⟩
      else if c = 1 ∨ c = 6 then ⟨.present (.due 20000), some allUp, false⟩ else ⟨.unheard, none, false⟩ }
  bus := { Bus.cold with ctl := .open, framer := .gap 11 }
  sender := { Sender.reset with beaconTimer := some 5000 }
  store := ⟨[groupABC],
    Vector.ofFn fun u => if u = 10 ∨ u = 29 ∨ u = 48 then [12] else [], [⟨7, .release⟩]⟩
  engine := { Engine.cold with build := [7], episode := some ⟨0, [], 0, 0, none⟩ }
  journal := ⟨0, [⟨.joined .cold 2, 5#32⟩], [⟨.cardSeen 1, 9#32⟩], true, 0#16⟩
  pending := [.lightFall 2] }

def withMonitor (p : Port) (m : MonitorState) (figure : Nat) (flag : Bool) (s : State) : State :=
  { s with monitors := setAt s.monitors p ⟨m, figure, flag, 0#16, 0#16⟩ }

def withEntry (u : Uplink) (e : Entry) (s : State) : State :=
  { s with view := { s.view with entries := setAt s.view.entries u e } }

def withLight (p : Port) (present : Bool) (s : State) : State :=
  { s with pins := { s.pins with light := setAt s.pins.light p present } }

/-- The state after a command. -/
def after (c : Instr) (s : State) : State :=
  match exec c s with
  | .next t => t
  | .fault _ => s
  | .refused _ => s

/-! ### Well-formedness and the table port's bytes -/

theorem test_wellFormed_refuses_a_short_image : WellFormed (.endOfLoading (.image [0xD2#8, 0x24#8])) = false := by decide

theorem test_wellFormed_refuses_a_known_byte_as_unknown : WellFormed (.unknownCommand 0x01#8) = false := by decide

theorem test_wellFormed_refuses_a_long_frame : WellFormed (.frameReceived 10 (List.replicate 49 true)) = false := by decide

theorem test_wellFormed_takes_an_unknown_byte : WellFormed (.unknownCommand 0x02#8) = true := by decide

/-- 12_formats.md section 12.4: COMMIT is 18 hex and two argument bytes; a byte after them is ignored. -/
theorem test_transaction_of_commit : decodeTransaction [0x18#8, 0x00#8, 0x0C#8, 0xEE#8] = some (.commit 0x00#8 0x0C#8) := by decide

/-- R142: cut before its last argument, it is no command. -/
theorem test_transaction_cut_short : decodeTransaction [0x18#8, 0x00#8] = none := by decide

/-- R144. -/
theorem test_transaction_unknown : decodeTransaction [0x77#8] = some (.unknownCommand 0x77#8) := by decide

/-! ### Tables and worked cases -/

/-- The tables of sections 2.6 and 2.8. -/
theorem test_decrements :
    decrement 64 1000 = 62 ∧ decrement 64 1938 = 121 ∧ decrement 64 3817 = 238 ∧ decrement 64 1551 = 96 ∧
      decrement 512 8191 = 4095 ∧ decrement 512 1 = 1 ∧ decrement 1 7168 = 7 ∧ decrement 1 1023 = 1 ∧ decrement 1 0 = 0 := by
  decide

/-- Section 2.6, step 6: 2817 + 1000 = 3817 sets the flag. -/
theorem test_lossTimerExpiry_suppresses :
    (after (.lossTimerExpiry 4) (withMonitor 4 (.fading .up 2000) 2817 false serving)).monitors[4] =
      ⟨.dark, 3817, true, 1#16, 0#16⟩ := by decide

/-- Section 2.6, tick 15: 1551 goes to 1455, the flag is cleared and HELD becomes UP. -/
theorem test_decayTick_releases :
    (after .decayTick (withMonitor 4 .held 1551 true (withEntry 28 ⟨.dark .held, false⟩ serving))).monitors[4] =
      ⟨.up, 1455, false, 0#16, 0#16⟩ := by decide +kernel

/-- R32: the own entry then settles for 2000 ms, at the tick's time 100 ms. -/
theorem test_decayTick_settles :
    (after .decayTick (withMonitor 4 .held 1551 true (withEntry 28 ⟨.dark .held, false⟩ serving))).view.entries[28] =
      ⟨.settling 2100000, false⟩ := by decide +kernel

/-- The tables of sections 6.5.1, 6.5.2 and 6.6.1. -/
theorem test_quotas :
    [0, 6, 7].map (quota (fun i => if i = 7 then 1 else 16) (List.finRange 8)) = [9, 9, 1] ∧
      (List.finRange 8).map (quota (fun i => [16, 16, 15, 15, 15, 15, 3, 1].getD i.val 0) (List.finRange 8)) =
        [11, 11, 10, 10, 10, 10, 2, 0] ∧
      [0, 1, 2].map (quota recordABC.weight [0, 1, 2]) = [32, 21, 11] := by decide

/-- The table of section 6.6.1. -/
theorem test_homeFill :
    [0, 1, 2, 30, 31, 32, 33, 34, 51, 52, 53, 63].map (fun k : Slot => groupABC.spread[k]) =
      [.member 0, .member 1, .member 2, .member 0, .member 1, .member 2, .member 0, .member 1, .member 0, .member 1, .member 0,
        .member 0] := by decide

/-- The table of section 8.3, after the requota of section 6.7.1: slots 4 and 7 go to A and slot 36 to C. -/
theorem test_requota :
    [2, 4, 7, 35, 36].map (fun k : Slot => (requota recordABC.weight [0, 2] groupABC.spread)[k]) =
      [.member 2, .member 0, .member 0, .member 0, .member 2] := by decide

/-- The table of section 8.3: before the loss, and after it before the reconcile. -/
theorem test_answers_across_a_loss :
    let lost := withEntry 29 ⟨.dark .lost, false⟩ serving
    let answers := fun (s : State) => [0x0801#16, 0x1234#16, 0x1C01#16, 0x8C00#16, 0x9000#16].map fun h => (s.answerFor ⟨0#8, 12, h⟩).1
    answers serving = [.normal 48 .t0, .normal 29 .t0, .normal 29 .t0, .normal 10 .t0, .normal 29 .t0] ∧
      answers lost = [.normal 48 .t0, .patched 10 .t0, .patched 48 .t0, .normal 10 .t0, .patched 10 .t0] := by decide

/-- Section 8.7: with the tier recorded none, level 1 uses tier 0; with no candidate the answer is DISCARD. -/
theorem test_patch_of_a_single_member :
    let r : Record := ⟨#v[some ⟨29, .t0, 1⟩, none, none, none, none, none, none, none], 1, none, true⟩
    patchAnswer r .none (fun u => u = 29) 0x4000#16 = .patched 29 .t0 ∧
      patchAnswer r .none (fun _ => false) 0x4000#16 = .discard := by decide

/-- Section 8.6, steps 1 to 3 and 6: the drop of 29 goes before the answer, and the group drop takes its turn after it. -/
theorem test_answer_channel :
    let s := { serving with lookup := { serving.lookup with
      queue := [⟨1#8, 12, 0x1234#16⟩], dropUplinks := [29], dropGroups := [12], lastKind := .answer } }
    s.channelChoice = .dropUplink 29 ∧ (after .dropUplink s).channelChoice = .dropGroup 12 ∧
      (after .dropGroup (after .dropUplink s)).channelChoice = .answer ⟨1#8, 12, 0x1234#16⟩ := by decide

/-- Section 9.5, steps 6 to 8: an escape that a member names is DUP_UPLINK; without it the COMMIT is OK. -/
theorem test_commit :
    (after (.commit 0x00#8 0x0C#8) { serving with port := { serving.port with
      staging := { recordABC with escape := some 29 } } }).port.response = [0x11#8] ∧
    (after (.commit 0x00#8 0x0C#8) { serving with port := { serving.port with staging := recordABC } }).store.pool =
      [⟨7, .release⟩, ⟨12, .record recordABC⟩] := by decide

/-- Section 9.5, step 2: place 0, uplink 10, tier 0, weight 3. -/
theorem test_stageMember :
    (after (.stageMember 0x03#8 0x0A#8) serving).port.staging.seats[0] = some ⟨10, .t0, 3⟩ := by decide

/-- R177: one bit through the register of all ones, worked by hand. -/
theorem test_crcStep : crcStep 0xFFFF#16 true = 0xFFFE#16 ∧ crcStep 0xFFFF#16 false = 0xEFDF#16 := by decide

/-- Section 12.2: sync 10101010, the class and card id of a RETURN of card 5, eight statuses UP, and two recessive end bits. -/
theorem test_frame_layout :
    (frameBits .return 5 allUp).extractLsb' 40 8 = 0xAA#8 ∧ frameClassBits (frameBits .return 5 allUp) = 2#2 ∧
      frameCardBits (frameBits .return 5 allUp) = 5#4 ∧ frameStatusBits (frameBits .return 5 allUp) = 0#16 ∧
      frameEndBits (frameBits .return 5 allUp) = 3#2 := by decide +kernel

/-- Section 12.3: tag 01 hex, group 12, hash 1234 hex. -/
theorem test_request_word : requestOf (0x01#8 ++ 12#10 ++ 0x1234#16) = ⟨0x01#8, 12, 0x1234#16⟩ := by decide

/-- R180: a stored presence window of 6 ms under a beacon interval of 5 ms sets mark 8 only, and the window becomes 10 ms. -/
theorem test_presence_window_adjusted :
    let c := { Settings.default with presenceWindow := 6 }
    c.adjusted.presenceWindow = 10 ∧ marksWord 0#4 (c.marks c.adjusted) = 0x0100#16 := by decide

/-! ### Witnesses: the hypotheses of the statements, met -/

theorem witness_StepRunsTheFrontCommandOrOneMicrosecond :
    serving.pending = .lightFall 2 :: [] ∧ State.reset.pending = [] := ⟨rfl, rfl⟩

theorem witness_LightFallInServiceStartsTheLossDebounce :
    State.reset.isLoading = true ∧ (withMonitor 2 .off 9 false serving).monitors[2].state = .off ∧
    (serving.isLoading = false ∧ serving.pins.light[2] = true ∧ serving.monitors[2].state = .up) ∧
      (withMonitor 2 .held 3000 true serving).monitors[2].state = .held := by decide

theorem witness_LightRiseInDarkStartsTheReturnDebounce :
    State.reset.isLoading = true ∧ (withMonitor 2 .off 9 false serving).monitors[2].state = .off ∧
    let s := withLight 2 false (withMonitor 2 .dark 1000 false serving)
    s.isLoading = false ∧ s.pins.light[2] = false ∧ s.monitors[2].state = .dark := by decide

theorem witness_FlickersAreNotCharged :
    (let s := withLight 2 false (withMonitor 2 (.fading .held 1050) 3000 true serving)
     s.isLoading = false ∧ s.pins.light[2] = false ∧ s.monitors[2].state = .fading .held 1050) ∧
    (let s := withMonitor 2 (.returning 11000) 1000 false serving
     s.isLoading = false ∧ s.pins.light[2] = true ∧ s.monitors[2].state = .returning 11000) := by decide

theorem witness_LossTimerExpiryConfirmsTheLoss :
    let s := withMonitor 2 (.fading .up 1050) 2000 false serving
    s.monitors[2].state = .fading .up 1050 ∧ s.view.cards[s.start.cardId].presence = .self ∧
      s.isAdmitted (uplinkOf s.start.cardId 2) = true := by decide

theorem witness_ReturnTimerExpiryReadsTheSuppressedFlag :
    let s := withMonitor 2 (.returning 11000) 3000 true serving
    s.monitors[2].state = .returning 11000 ∧ s.view.cards[s.start.cardId].presence = .self ∧ s.view.draining = false ∧
      ({ s with view := { s.view with draining := true } } : State).view.draining = true := by
  decide

theorem witness_StandingIsAppliedAsTheTableGives :
    (⟨.admitted, false⟩ : Entry).state = .admitted ∧ (⟨.settling 9000, false⟩ : Entry).state = .settling 9000 ∧
      (⟨.dark .lost, false⟩ : Entry).state = .dark .lost := ⟨rfl, rfl, rfl⟩

/-- A figure that comes to U exactly, one that stays above it, and a port in OFF. -/
theorem witness_DecayTickLowersEveryWatchedPort :
    let s := withMonitor 0 .held 1600 true (withMonitor 1 .held 1601 true (withMonitor 2 .off 9 false serving))
    s.clock.nextTick = some 100000 ∧ s.monitors[0].state ≠ .off ∧ s.monitors[1].state ≠ .off ∧ s.monitors[2].state = .off ∧
      MonitorState.up.isHeld = false := by decide

theorem witness_OffPortsAreFrozen :
    let s := withMonitor 2 .off 9 false serving
    (∃ t, exec .decayTick s = .next t) ∧ s.monitors[2].state = .off ∧ Instr.decayTick ≠ .readCounters :=
  ⟨⟨_, rfl⟩, by decide, by decide⟩

theorem witness_AdmissionDeadlineAdmits :
    let s := withEntry 10 ⟨.settling 9000, false⟩ serving
    s.view.entries[10].state = .settling 9000 ∧ waitingIn s.engine.calm 10 = false := by decide

theorem witness_PresenceDeadlineLosesTheCard :
    serving.view.cards[1].presence.dueTime = some 20000 ∧ cardOf 10 = 1 ∧ cardOf 29 ≠ 1 ∧ serving.isAdmitted 10 = true := by
  decide

theorem witness_FirstMarkIsSpentOnce :
    (∃ t, exec (.admissionDeadline 10) serving = .next t) ∧ serving.view.entries[10].firstMark = false :=
  ⟨⟨_, rfl⟩, by decide⟩

/-- A framer with this much of a frame taken, which this chip did or did not abort. -/
def inFrame (aborted : Bool) (taken : List Bool) : State :=
  { serving with bus := { serving.bus with framer := .receiving aborted taken } }

/-- A start edge at 9, one at 10, a frame taken in two parts, and a controller that receives nothing. -/
theorem witness_FrameOfAnotherCardIsApplied :
    let s := { serving with bus := { serving.bus with framer := .gap 3 } }
    let frame := lineBits .return 6 allUp
    s.bus.ctl.receives = true ∧ s.bus.framer = .gap 3 ∧ 3 + 6 < 10 ∧ 10 ≤ 3 + 7 ∧ (6 : CardId) ≠ s.start.cardId ∧
      s.mayStart = false ∧
      ((inFrame true (frame.take 20)).bus.framer = .receiving true (frame.take 20) ∧ (frame.take 20).length < 48 ∧
        frame.take 20 ++ frame.drop 20 = frame) ∧
      (serving.bus.framer = .gap 11 ∧ 10 ≤ 11) ∧
      ({ serving with bus := { serving.bus with ctl := .fault, framer := .off } } : State).bus.ctl.receives = false ∧
      serving.journal.size ≤ 64 := by decide +kernel

/-- A wrong sync bit, a wrong end bit, a wrong CRC, a part of a frame, and a frame of this chip's own card id. -/
theorem witness_DiscardedAndClashingFrames :
    let s := inFrame true [true]
    let rest := fun w : BitVec 48 => (bitsOf w).drop 1
    let wrong := fun (l : List Bool) (k : Nat) => l[k]? = some (decide (k % 2 = 1))
    s.bus.ctl.receives = true ∧
      (s.bus.framer = .receiving true [true] ∧ ([true] : List Bool).length < 48 ∧ ∀ k < 8, ¬ wrong [true] k) ∧
      (serving.bus.framer = .gap 11 ∧ 10 ≤ 11 + 0 ∧ serving.mayStart = false) ∧
      (([true] ++ [true]).length = 1 + 1 ∧ wrong ([true] ++ [true]) 1 ∧ ∀ j < 1, ¬ wrong ([true] ++ [true]) j) ∧
      ((∀ k < 8, ¬ wrong ([true] ++ rest 0xAA0000000001#48) k) ∧ ([true] ++ rest 0xAA0000000001#48).length = 48 ∧
        ([true] ++ rest 0xAA0000000001#48)[46]? = some false) ∧
      ((∀ k < 8, ¬ wrong ([true] ++ rest 0xAA0000000003#48) k) ∧
        ¬ (([true] ++ rest 0xAA0000000003#48)[46]? = some false ∨ ([true] ++ rest 0xAA0000000003#48)[47]? = some false) ∧
        ¬ bitsOf (crcOf ((([true] ++ rest 0xAA0000000003#48).drop 8).take 22)) =
          (([true] ++ rest 0xAA0000000003#48).drop 30).take 16) ∧
      ((∀ k < 8, ¬ wrong ([true] ++ [false]) k) ∧ ([true] ++ [false]).length < 48) ∧
      [true] ++ (lineBits .loss 3 allUp).drop 1 = lineBits .loss s.start.cardId allUp := by decide +kernel

theorem witness_OneWrongBitDiscardsTheFrame :
    serving.bus.ctl.receives = true ∧ serving.bus.framer = .gap 11 ∧ 10 ≤ 11 + 0 ∧ serving.mayStart = false := by decide

/-- The same under the LOCAL policy. -/
def servingLocal : State :=
  { serving with start := { serving.start with settings := { Settings.default with policy := .localOnly } } }

theorem witness_StuckLineIsolates :
    let local' := servingLocal
    serving.bus.ctl.receives = true ∧ 64 < 65 ∧ serving.drivesLine = false ∧ serving.start.settings.policy = .hold ∧
      local'.start.settings.policy = .localOnly ∧ cardOf 10 ≠ local'.start.cardId ∧
      local'.view.cards[cardOf 10].presence = .present (.due 20000) ∧ local'.view.cards[cardOf 10].heard (portOf 10) = .up ∧
      local'.isAdmitted 10 = true ∧ cardOf 29 = local'.start.cardId ∧
      (cardOf 0 ≠ local'.start.cardId ∧ local'.view.entries[0].state = .dark .unheard) ∧
      (inFrame true [true]).bus.framer = .receiving true [true] := by decide

theorem witness_FaultRecoveryEndsIsolation :
    ({ serving with bus := { serving.bus with ctl := .fault, framer := .off } } : State).bus.ctl = .fault ∧ 10 < 11 ∧ 11 ≤ 11 := by
  decide

/-- A start of its own at 11, a join at 10 with an edge, and neither at 10 without one; no start for want of a permitted one. -/
theorem witness_FrameStartFixesTheFrame :
    let s := { serving with
      bus := { serving.bus with framer := .gap 4 }
      sender := { serving.sender with lossDue := true, history := List.replicate 8 0 } }
    let late := { s with clock := { s.clock with now := 1000000 } }
    late.bus.framer = .gap 4 ∧ 11 ≤ 4 + 7 ∧ (11 ≤ 4 + 6 ∨ (true = true ∧ 10 ≤ 4 + 6)) ∧ late.sender.lossDue = true ∧
      late.sender.history = 0 :: List.replicate 7 0 ∧ 0 + 10 * late.start.settings.txWindow ≤ late.clock.now ∧
      late.bus.ctl = .open ∧ late.start.phase = .serve ∧ late.mayStart = true ∧ serving.mayStart = false ∧
      ¬ (s.sender.history.length < s.start.settings.txLimit) ∧ ¬ (0 + 10 * s.start.settings.txWindow ≤ s.clock.now - 1) := by
  decide

/-- The 15th and the 16th abort of a run; a frame none of whose bits has been read back, one in its arbitration field, whose class LOSS
and card id 3 leave a 1 at bits 12 and 13, and one past it. -/
theorem witness_LostAndAbortedFramesAreHandedBack :
    let s := fun sent n => { serving with bus := { serving.bus with framer := .sending .loss allUp sent, abortRun := n } }
    let own := lineBits .loss (s 0 0).start.cardId allUp
    (s 0 14).bus.framer = .sending .loss allUp 0 ∧ (s 12 15).bus.framer = .sending .loss allUp 12 ∧
      (s 0 14).bus.abortRun + 1 < 16 ∧ 16 ≤ (s 12 15).bus.abortRun + 1 ∧ (s 0 14).bus.ctl.receives = true ∧
      own[11]? = some false ∧ own[12]? = some true ∧ own[13]? = some true ∧ own[14]? = some false ∧
      (∀ n, 14 ≤ n → ¬ (8 ≤ n ∧ n < 14 ∧ own[n]? = some true)) :=
  ⟨rfl, rfl, by decide, by decide, rfl, by decide +kernel, by decide +kernel, by decide +kernel, by decide +kernel,
    fun _ h => fun k => absurd k.2.1 (by omega)⟩

/-- R58, R59: with a BEACON (class 11) waiting, card 3 joins card 6's RETURN frame (class 10) and loses arbitration at the second class
bit; the frame is taken to its end and counted as received. -/
theorem test_join_and_lose :
    let t := after (.frameReceived 0 (lineBits .return 6 allUp)) { serving with sender := { serving.sender with beaconDue := true } }
    t.bus.arbLost = 1#16 ∧ t.bus.framesReceived = 1#16 ∧ t.sender.beaconDue = true ∧ t.bus.framer = .gap 0 := by decide +kernel

/-- R53: after a wrong sync bit, ten recessive bit times outside the frame and a dominant one are a start again. -/
theorem test_idle_counts_after_a_mismatch :
    (after (.frameReceived 0 (false :: List.replicate 10 true ++ [false, true])) serving).bus.framer = .receiving false [true] := by
  decide +kernel

/-- R60: the 0 of the second sync bit read back as 1 aborts, and is a sync mismatch, which is not counted. -/
theorem test_abort_in_sync :
    let t := after (.frameReceived 0 [true, true])
      { serving with bus := { serving.bus with framer := .sending .loss allUp 0 } }
    t.bus.framer = .gap 0 ∧ t.bus.aborts = 1#16 ∧ t.bus.framingErrors = 0#16 ∧ t.sender.lossDue = true := by decide +kernel

/-- R142: a chip select asserted, with no command taken, when WARM_N falls is ignored; released and asserted again it is not. -/
theorem test_chip_select_through_a_reset :
    let held := after (.warmNReleased 3) (after .warmNAsserted (after (.chipSelectRelease ⟨3, true⟩) serving))
    (after .status held).port.response = [] ∧
      (after .status (after (.chipSelectRelease ⟨3, true⟩) held)).port.response.length = 7 := by decide +kernel

theorem witness_CompletionAndTimersOfTheSendingSide :
    ({ serving with bus := { serving.bus with ctl := .muted 9000 } } : State).bus.ctl = .muted 9000 ∧
      serving.sender.beaconTimer = some 5000 ∧
      ({ serving with bus := { serving.bus with framer := .sending .withdraw allUp 20 } } : State).bus.framer =
        .sending .withdraw allUp 20 := ⟨rfl, rfl, rfl⟩

theorem witness_QuotasShareSixtyFourSlots :
    ([0, 1, 2] : List MemberIdx) ≠ [] ∧ ([0, 1, 2] : List MemberIdx).Nodup ∧
      (∀ i ∈ ([0, 1, 2] : List MemberIdx), 1 ≤ recordABC.weight i) ∧
      quota recordABC.weight [0, 1, 2] 2 = 64 * recordABC.weight 2 / 6 + 1 ∧
      quota recordABC.weight [0, 1, 2] 1 = 64 * recordABC.weight 1 / 6 := by decide

theorem witness_HomeFillDealsTheQuotasInRounds :
    ([0, 1, 2] : List MemberIdx) ≠ [] ∧ ([0, 1, 2] : List MemberIdx).Pairwise (· < ·) ∧
      (∀ i ∈ ([0, 1, 2] : List MemberIdx), 1 ≤ recordABC.weight i) ∧
      ((homeFill recordABC.weight [0, 1, 2]).toList.take 33).count (.member 0) < quota recordABC.weight [0, 1, 2] 0 := by
  decide +kernel

theorem witness_RequotaKeepsWhatFitsTheQuotas :
    ([0, 2] : List MemberIdx).Sublist [0, 1, 2] ∧ ([0, 1, 2] : List MemberIdx).Nodup ∧
      (∀ i ∈ ([0, 1, 2] : List MemberIdx), 1 ≤ recordABC.weight i) ∧ groupABC.spread[0] = .member 0 ∧
      (groupABC.spread.toList.take 0).count (.member 0) < quota recordABC.weight [0, 2] 0 ∧
      (∀ i ∈ ([0, 1, 2] : List MemberIdx), groupABC.spread.toList.count (.member i) = quota recordABC.weight [0, 1, 2] i) ∧
      (([0, 2] : List MemberIdx).Pairwise (· < ·) ∧ groupABC.spread[4] = .member 1 ∧
        (requota recordABC.weight [0, 2] groupABC.spread)[4] = .member 0) := by
  decide +kernel

/-- Each of the six cases of R94. -/
theorem witness_TierChoiceTakesTheFirstCase :
    let seats : Vector (Option Seat) 8 := #v[some ⟨10, .t0, 1⟩, some ⟨29, .t0, 1⟩, some ⟨48, .t1, 1⟩, none, none, none, none, none]
    let r : Record := ⟨seats, 2, some 5, true⟩
    let stay : Record := ⟨seats, 2, some 5, false⟩
    (stay.revertive = false ∧ stay.admittedOf .t1 (fun u => u = 48) ≠ []) ∧
      r.minLive ≤ (r.admittedOf .t0 fun _ => true).length ∧
      (¬ r.minLive ≤ (r.admittedOf .t0 fun u => u = 10 ∨ u = 48).length ∧ r.admittedOf .t1 (fun u => u = 10 ∨ u = 48) ≠ []) ∧
      (¬ r.minLive ≤ (r.admittedOf .t0 fun u => u = 10).length ∧ r.admittedOf .t1 (fun u => u = 10) = [] ∧
        r.admittedOf .t0 (fun u => u = 10) ≠ []) ∧
      (r.admittedOf .t1 (fun u => u = 5) = [] ∧ r.admittedOf .t0 (fun u => u = 5) = [] ∧ r.escape = some 5) ∧
      r.admittedOf .t0 (fun _ => false) = [] := by decide

/-- The engine with nothing running and these entries waiting. -/
def waiting (urgent : List WorkEntry) (sweep : Option SweepEntry) (build : List GroupNo) (calm : List WorkEntry) : State :=
  { serving with engine := { serving.engine with urgent := urgent, sweep := sweep, build := build, calm := calm } }

theorem witness_ArbiterTakesTheFirstEntry :
    (let s := waiting [⟨10, none⟩] none [7] []
     s.engine.job = none ∧ s.start.phase = .serve ∧ s.engine.urgent = ⟨10, none⟩ :: []) ∧
    (let s := waiting [] (some ⟨none⟩) [7] []
     s.engine.urgent = [] ∧ s.engine.sweep = some ⟨none⟩) ∧
    (let s := waiting [] none [7] [⟨10, none⟩]
     s.engine.build = 7 :: [] ∧ s.store.pendingFor 7 = some .release) ∧
    (let s := waiting [] none [] [⟨10, some 12⟩]
     s.engine.build = [] ∧ s.engine.calm = ⟨10, some 12⟩ :: []) ∧
    (waiting [] none [] []).engine.worklistLength = 0 ∧ State.reset.isLoading = true ∧
    ({ serving with start := { serving.start with phase := .listen 5 } } : State).start.phase = .listen 5 ∧
    ({ serving with engine := { serving.engine with job := some (.urgent 10 ⟨none, 12, [10]⟩) } } : State).engine.job ≠ none := by
  decide

theorem witness_ReconcileReplacesTheGroupWhole :
    let s := { serving with engine := { serving.engine with job := some (.calm 29 ⟨none, 12, [10, 48]⟩) } }
    s.engine.job = some (.calm 29 ⟨none, 12, [10, 48]⟩) ∧
      (Job.calm 29 ⟨none, 12, [10, 48]⟩).walk? = some ⟨none, 12, [10, 48]⟩ ∧ s.store.find 12 = some groupABC ∧
      s.engine.episode = some ⟨0, [], 0, 0, none⟩ := ⟨rfl, rfl, rfl, rfl⟩

theorem serving_lists (u : Uplink) :
    serving.store.memberLists[u] = if u = 10 ∨ u = 29 ∨ u = 48 then [12] else [] := by
  simp [serving]

theorem witness_ListLaw : serving.store.ListLaw := by
  constructor
  · intro u
    rw [serving_lists]
    split <;> simp
  · intro u g
    rw [serving_lists]
    have n : recordABC.names u = decide (u = 10 ∨ u = 29 ∨ u = 48) := by revert u; decide
    have e : serving.store.namesUplink g u = if g = 12 then recordABC.names u else false := by
      by_cases h : g = 12
      · subst h; rfl
      · have hb : ((12 : GroupNo) == g) = false := by simpa using fun k => h k.symm
        simp only [Store.namesUplink, Store.find, serving, groupABC, List.find?_cons, List.find?_nil, hb, h, if_false]
    rw [e, n]
    by_cases h : g = 12 <;> by_cases k : u = 10 ∨ u = 29 ∨ u = 48 <;> simp [h, k]

theorem witness_InstallationReplacesRecordAndLists :
    let s := { serving with engine := { serving.engine with job := some (.build 12 (.record recordABC) [10, 29]) } }
    s.engine.job = some (.build 12 (.record recordABC) [10, 29]) ∧ s.store.ListLaw ∧
      s.engine.episode = some ⟨0, [], 0, 0, none⟩ := ⟨rfl, witness_ListLaw, rfl⟩

theorem witness_SettleDeadlineClosesTheEpisode :
    let s := { serving with
      store := { serving.store with pool := [] }
      engine := { Engine.cold with episode := some ⟨0, [12], 21, 1, some 25000⟩ } }
    s.engine.episode = some ⟨0, [12], 21, 1, some 25000⟩ ∧ s.engine.atRest = true := by decide

/-- A queue with one place left and a full one. -/
theorem witness_LookupRequestJoinsTheQueue :
    let s := fun n => { serving with lookup := { serving.lookup with queue := List.replicate n ⟨1#8, 12, 0#16⟩ } }
    (s 15).start.phase = .serve ∧ (s 15).lookup.queue.length < 16 ∧ ¬ (s 16).lookup.queue.length < 16 := by decide

/-- Requests for an UNUSED group, a member's slot, and a slot whose member is out of service; an escape's and an empty slot. -/
theorem witness_AnswerIsComputedAtEmission :
    let s := { serving with lookup := { serving.lookup with queue := [⟨1#8, 12, 0x1234#16⟩] } }
    let t := withEntry 29 ⟨.dark .lost, false⟩ s
    (s.start.phase = .serve ∧ s.lookup.dropAll = false ∧ s.lookup.dropUplinks = [] ∧
      s.lookup.queue = ⟨1#8, 12, 0x1234#16⟩ :: [] ∧ s.lookup.dropGroups = [] ∧ s.lookup.lastKind = .dropGroup) ∧
    s.store.find 900 = none ∧
    (s.store.find 12 = some groupABC ∧ groupABC.spread[4] = .member 1 ∧ recordABC.seats[1] = some ⟨29, .t0, 2⟩ ∧
      s.isAdmitted 29 = true) ∧
    t.isAdmitted 29 = false ∧
    (let e : Group := { groupABC with
       number := 900, record := { recordABC with escape := some 5 }, mode := .escape, tier := .escape, set := .escape
       spread := Vector.replicate 64 .escape }
     let d : Group := { groupABC with number := 901, mode := .dark, tier := .none, set := .empty, spread := Vector.replicate 64 .empty }
     let v := withEntry 5 ⟨.admitted, false⟩ { s with store := { s.store with groups := [groupABC, e, d] } }
     v.store.find 900 = some e ∧ e.spread[4] = .escape ∧ e.record.escape = some 5 ∧ v.isAdmitted 5 = true ∧
       s.isAdmitted 5 = false ∧ v.store.find 901 = some d ∧ d.spread[4] = .empty) := by decide +kernel

/-- Four records that reach the four cases of R131. -/
theorem witness_PatchRuleTriesThreeLevels :
    let r : Record := ⟨#v[some ⟨10, .t0, 1⟩, some ⟨48, .t1, 1⟩, none, none, none, none, none, none], 1, some 5, true⟩
    patchAnswer r (.tier .t0) (fun u => u = 10) 7#16 = .patched 10 .t0 ∧
      patchAnswer r (.tier .t0) (fun u => u = 48) 7#16 = .patched 48 .t1 ∧
      patchAnswer r (.tier .t0) (fun u => u = 5) 7#16 = .escape 5 ∧
      patchAnswer r (.tier .t0) (fun _ => false) 7#16 = .discard := by decide

theorem witness_NoAnswerNamesAnUplinkOutOfService :
    let s := { serving with lookup := { serving.lookup with queue := [⟨1#8, 12, 0x1234#16⟩] } }
    (after .answer s).lookup.emitted = some (.answer 1#8 (.normal 29 .t0)) ∧
      (Answer.normal 29 .t0).uplink = some 29 ∧ (after .answer s).lookup.emitted ≠ s.lookup.emitted := by decide +kernel

theorem witness_DropsLeaveTheirSets :
    let s := { serving with lookup := { serving.lookup with dropAll := true } }
    let u := { serving with lookup := { serving.lookup with dropUplinks := [10, 29] } }
    let g := { serving with lookup := { serving.lookup with dropGroups := [12, 900] } }
    s.start.phase = .serve ∧ s.lookup.dropAll = true ∧ (s.offered = some .dropAll ∧ u.offered = some (.dropUplink 10)) ∧
      (u.LookupLaw ∧ u.lookup.dropAll = false ∧ u.lookup.dropUplinks = 10 :: [29]) ∧
      (g.LookupLaw ∧ g.lookup.dropAll = false ∧ g.lookup.dropUplinks = [] ∧ g.lookup.dropGroups = 12 :: [900] ∧
        g.lookup.queue = []) :=
  ⟨rfl, rfl, ⟨by decide, by decide⟩, ⟨⟨by decide, by decide, by decide, by decide⟩, rfl, rfl⟩, ⟨⟨by decide, by decide, by decide, by decide⟩, rfl, rfl, rfl, rfl⟩⟩

theorem serving_takes : serving.TakesCommand := ⟨rfl, rfl, .inl rfl⟩

theorem witness_StagingCommandsSetTheStagingRecord : serving.TakesCommand ∧ serving.isLoading = false := ⟨serving_takes, rfl⟩

theorem serving_episodeLaw : serving.EpisodeLaw := by
  refine ⟨by decide, ?_, ?_, ?_, rfl⟩ <;> intro e h <;> cases h <;> decide

/-- The seven outcomes of a COMMIT or RELEASE. -/
theorem witness_CommitAndReleaseFillThePool :
    (serving.TakesCommand ∧ serving.isLoading = false) ∧
    Record.cleared.tier0Count = 0 ∧
    (let r := { recordABC with escape := some 29 }
     r.tier0Count ≠ 0 ∧ ¬ r.named.Nodup) ∧
    (let r : Record := ⟨#v[some ⟨10, .t0, 17⟩, none, none, none, none, none, none, none], 1, none, true⟩
     r.tier0Count ≠ 0 ∧ r.named.Nodup ∧ ∃ m ∈ r.members, ¬ (1 ≤ m.2.weight ∧ m.2.weight ≤ 16)) ∧
    (recordABC.tier0Count < { recordABC with minLive := 4 }.minLive ∧ { recordABC with minLive := 0 }.minLive = 0) ∧
    recordABC.Valid ∧ serving.store.pendingFlag 7 = true ∧
    (serving.store.pendingFlag 12 = false ∧ serving.store.pool.length < 16) ∧
    16 ≤ (List.replicate 16 (⟨7, .release⟩ : PendingRecord)).length ∧ serving.EpisodeLaw :=
  ⟨⟨serving_takes, rfl⟩, by decide, by decide, by decide, by decide, ⟨by decide, by decide, by decide, by decide⟩, by decide,
    by decide, by decide, serving_episodeLaw⟩

theorem witness_ReadJournalDeliversTheOldest : serving.TakesCommand ∧ serving.isLoading = false ∧
    serving.journal.committed.length = 1 := ⟨serving_takes, rfl, rfl⟩

theorem witness_ReadCountersClearsTheCounters : serving.TakesCommand ∧ serving.isLoading = false := ⟨serving_takes, rfl⟩

theorem witness_DrainAndUndrainMoveTheOwnEntries :
    let drained := { serving with view := { serving.view with draining := true } }
    let rejoining := { serving with sender := { serving.sender with rejoin := true } }
    serving.TakesCommand ∧ serving.start.phase = .serve ∧ serving.sender.rejoin = false ∧ serving.view.draining = false ∧
      serving.view.cards[serving.start.cardId].presence = .self ∧ serving.isAdmitted 29 = true ∧
      cardOf 29 = serving.start.cardId ∧ cardOf 10 ≠ serving.start.cardId ∧ drained.view.draining = true ∧
      drained.isLoading = false ∧ rejoining.sender.rejoin = true :=
  ⟨serving_takes, by decide⟩

theorem witness_RefusedCommandsChangeNothing :
    (WellFormed .drain = true ∧ encodeTransaction .drain = some [0x30#8]) ∧
      (State.reset.TakesCommand ∧ State.reset.isLoading = true ∧ State.reset.start.phase ≠ .serve) ∧
      ({ serving with pins := { serving.pins with warmN := true } } : State).pins.warmN = true ∧
      ({ serving with port := { serving.port with transaction := .taken } } : State).port.transaction = .taken ∧
      WellFormed (.unknownCommand 0x77#8) = true :=
  ⟨by decide, ⟨⟨rfl, rfl, .inl rfl⟩, by decide, by decide⟩, by decide, by decide, by decide⟩

theorem witness_TransactionBytesAreTakenAsTheCommand :
    WellFormed (.commit 0x00#8 0x0C#8) = true ∧ encodeTransaction (.commit 0x00#8 0x0C#8) = some [0x18#8, 0x00#8, 0x0C#8] ∧
      2 < [0x18#8, 0x00#8, 0x0C#8].length := by decide

theorem witness_ColdResetClearsThePart : serving.pins.resetN = false := rfl

/-- WARM_N while RESET_N is asserted, and chip select released while WARM_N is. -/
theorem witness_WarmResetKeepsWhatItKeeps_asserted :
    let s := fun r w => { serving with pins := { serving.pins with resetN := r, warmN := w } }
    (s true false).pins.resetN = true ∧ (s false true).pins.warmN = true ∧ (s false true).port.warmOrdered = false := by decide

theorem witness_WarmResetKeepsWhatItKeeps :
    serving.pins.resetN = false ∧ serving.pins.warmN = false ∧ serving.TakesCommand ∧ serving.isLoading = false ∧
      serving.port.warmOrdered = false ∧
      ({ serving with port := { serving.port with warmOrdered := true } } : State).port.warmOrdered = true :=
  ⟨rfl, rfl, serving_takes, rfl, rfl, rfl⟩

theorem witness_ReleaseBeginsTheLoad :
    let s := fun r w => { serving with pins := { serving.pins with resetN := r, warmN := w } }
    ((s true false).pins.resetN = true ∧ (s true false).pins.warmN = false) ∧
      ((s false true).pins.resetN = false ∧ (s false true).pins.warmN = true) ∧
      ((s true true).pins.resetN = true ∧ (s true true).pins.warmN = true) ∧
      State.reset.start.phase = .loading (.reading 50000) := by decide

/-- A read that ends at the limit, one that ends after it, and a load that has timed out. -/
theorem witness_EndOfLoadingTakesUpTheStart :
    let s := { State.reset with clock := { State.reset.clock with now := 50000 } }
    let late := { State.reset with clock := { State.reset.clock with now := 50001 } }
    (s.start.phase = .loading (.reading 50000) ∧ s.clock.now ≤ 50000) ∧
      (late.start.phase = .loading (.reading 50000) ∧ ¬ late.clock.now ≤ 50000) ∧
      ({ s with start := { s.start with phase := .loading .timedOut } } : State).start.phase = .loading .timedOut := by decide

/-- An image of zeros after its magic value, with the CRC it has and with another. -/
theorem witness_ImageIsJudgedInOrder :
    let body := [0xD2#8, 0x24#8] ++ List.replicate 23 0#8
    let crc := crcOf (body.flatMap bitsOf)
    let good := body ++ [crc.extractLsb' 8 8, crc.extractLsb' 0 8]
    (good.length = 27 ∧ good.take 2 = [0xD2#8, 0x24#8] ∧
      crcOf ((good.take 25).flatMap bitsOf) = good.getD 25 0#8 ++ good.getD 26 0#8) ∧
    ((List.replicate 27 0#8).length = 27 ∧ ¬ (List.replicate 27 0#8).take 2 = [0xD2#8, 0x24#8]) ∧
    (let bad := body ++ [~~~(crc.extractLsb' 8 8), crc.extractLsb' 0 8]
     bad.length = 27 ∧ bad.take 2 = [0xD2#8, 0x24#8] ∧
      ¬ crcOf ((bad.take 25).flatMap bitsOf) = bad.getD 25 0#8 ++ bad.getD 26 0#8) := by decide +kernel

theorem witness_ListenDeadlineEntersServe :
    ({ serving with start := { serving.start with phase := .listen 20000 } } : State).start.phase = .listen 20000 := rfl

/-- The 31st and the 32nd record held back, a full ring, and no episode. -/
theorem witness_JournalCommitsAndKeepsItsLaw :
    let r : JournalRecord := ⟨.busFault, 0#32⟩
    let j := fun a b => ({ Journal.cold with committed := List.replicate a r, heldBack := List.replicate b r, episodeOpen := true } : Journal)
    ((j 0 30).Law ∧ (j 0 30).heldBack.length < 31) ∧ ((j 33 31).Law ∧ (j 33 31).heldBack.length = 31 ∧ (j 33 31).size = 64) ∧
      (Journal.cold.Law ∧ Journal.cold.episodeOpen = false) :=
  ⟨⟨⟨by decide, by decide, by decide⟩, by decide⟩, ⟨⟨by decide, by decide, by decide⟩, by decide, by decide⟩,
    ⟨by decide, by decide, by decide⟩, by decide⟩

/-! ### Witnesses: a state that meets each law, with a step from it -/

theorem serving_steps : ∃ t, step serving = .next t := ⟨_, rfl⟩

theorem witness_DampingLawIsKept : serving.DampingLaw ∧ (∃ t, step serving = .next t) ∧ 512 ≤ 512 := by
  refine ⟨fun p => ?_, serving_steps, le_rfl⟩
  have e : serving.monitors[p] = ⟨.up, 0, false, 0#16, 0#16⟩ := by simp [serving]
  rw [e]
  exact ⟨by decide, by decide⟩

theorem serving_agrees : ∀ u : Uplink, (match serving.view.entries[u].state with
    | .dark r => decide (serving.standing u = .dark r)
    | _ => decide (serving.standing u = .inService)) = true := by decide +kernel

theorem serving_viewLaw : serving.ViewLaw where
  own := by decide +kernel
  loading := fun h => absurd h (by decide)
  agree := fun u => by
    have h := serving_agrees u
    revert h
    cases serving.view.entries[u].state <;> simp [EntryState.agrees]

theorem serving_resetLaw : serving.ResetLaw := fun h => absurd h (by decide)

theorem witness_ViewLawIsKept : serving.ResetLaw ∧ serving.ViewLaw ∧ (∃ t, step serving = .next t) ∧ serving.isAdmitted 29 = true :=
  ⟨serving_resetLaw, serving_viewLaw, serving_steps, by decide⟩

theorem witness_MarkLaw : serving.MarkLaw ∧ ∃ t, step serving = .next t := by
  refine ⟨fun u => ?_, serving_steps⟩
  have h : serving.view.entries[u] = if cardOf u = 1 ∨ cardOf u = 3 ∨ cardOf u = 6 then ⟨.admitted, false⟩
      else ⟨.dark .unheard, true⟩ := by simp [serving]
  rw [h]
  split
  · exact .inr rfl
  · exact .inl ⟨_, rfl⟩

theorem witness_BusLawIsKept : serving.ResetLaw ∧ serving.BusLaw ∧ ∃ t, step serving = .next t :=
  ⟨serving_resetLaw,
    ⟨by decide, by decide, by decide, by decide, by decide, by decide, by decide, by decide +kernel, by decide,
      (fun _ _ h => nomatch h), (fun _ _ _ h => nomatch h)⟩, serving_steps⟩

theorem witness_SenderLawIsKept : serving.ResetLaw ∧ serving.SenderLaw ∧ ∃ t, step serving = .next t :=
  ⟨serving_resetLaw, ⟨by decide, by decide, by decide, by decide⟩, serving_steps⟩

theorem witness_GroupLawIsKept : serving.GroupLaw ∧ ∃ t, step serving = .next t := by
  refine ⟨⟨?_, ?_, ?_, ?_, ?_⟩, serving_steps⟩
  · intro x hx
    rw [List.mem_singleton.1 hx]
    trivial
  · exact fun j h => nomatch h
  · decide
  · intro x hx
    rw [List.mem_singleton.1 hx]
    exact ⟨by decide, by decide, by decide, by decide⟩
  · intro x hx
    rw [List.mem_singleton.1 hx]
    exact ⟨rfl, [0, 1, 2], rfl, by decide, ⟨by decide, by decide, by decide, by decide +kernel, by decide +kernel⟩⟩

theorem witness_MemberListLawIsKept : serving.store.ListLaw ∧ ∃ t, step serving = .next t := ⟨witness_ListLaw, serving_steps⟩

theorem witness_WorkLawIsKept : serving.WorkLaw ∧ ∃ t, step serving = .next t := by
  refine ⟨⟨by decide, by decide, by decide, fun g => ?_, by decide⟩, serving_steps⟩
  have m : g ∈ serving.engine.build ↔ g = 7 := List.mem_singleton
  rw [m]
  by_cases h : g = 7
  · subst h; decide
  · have hb : ((7 : GroupNo) == g) = false := by simpa using fun k => h k.symm
    have e : serving.store.pendingFlag g = false := by
      simp only [Store.pendingFlag, Store.pendingFor, serving, List.find?_cons, List.find?_nil, hb, Option.map_none,
        Option.isSome_none]
    simp [h, e]

theorem witness_EpisodeLawIsKept : serving.EpisodeLaw ∧ ∃ t, step serving = .next t := ⟨serving_episodeLaw, serving_steps⟩

theorem witness_LookupLawIsKept : serving.ResetLaw ∧ serving.LookupLaw ∧ ∃ t, step serving = .next t :=
  ⟨serving_resetLaw, ⟨by decide, by decide, by decide, by decide⟩, serving_steps⟩

theorem witness_SettingsAndResetLawsAreKept : serving.SettingsLaw ∧ serving.ResetLaw ∧ ∃ t, step serving = .next t := by
  refine ⟨?_, serving_resetLaw, serving_steps⟩
  constructor <;> decide

theorem witness_JournalLaw : serving.journal.Law ∧ ∃ t, step serving = .next t :=
  ⟨⟨by decide, by decide, by decide⟩, serving_steps⟩

theorem witness_ReadsChangeNothing : serving.GroupLaw ∧ groupABC ∈ serving.store.groups ∧ serving.store.find 900 = none ∧
    serving.TakesCommand ∧ serving.isLoading = false :=
  ⟨witness_GroupLawIsKept.1, List.mem_singleton.2 rfl, by decide, serving_takes, rfl⟩

/-- The last clause of StuckLineIsolates: a state under LOCAL that keeps the view law. -/
theorem witness_StuckLineIsolates_local : servingLocal.ViewLaw where
  own := serving_viewLaw.own
  loading := fun h => absurd h (by decide)
  agree := serving_viewLaw.agree

end Sys2Proof.Tests
end

section
/-! The operations of the model that leave the eight Light Monitors as they are, one lemma each. -/

namespace Sys2Proof.Machine

namespace State

variable (s : State)

/-! ### Shared operations that leave the monitors as they are -/

@[simp] theorem elapse_monitors (d : Nat) : (s.elapse d).monitors = s.monitors := rfl
@[simp] theorem advanceTo_monitors (t : Nat) : (s.advanceTo t).monitors = s.monitors := rfl
@[simp] theorem append_monitors (b : JournalBody) : (s.append b).monitors = s.monitors := rfl
@[simp] theorem orderMade_monitors : s.orderMade.monitors = s.monitors := rfl
@[simp] theorem putGroupDrop_monitors (g : GroupNo) : (s.putGroupDrop g).monitors = s.monitors := rfl
@[simp] theorem setCard_monitors (c : CardId) (r : CardRecord) : (s.setCard c r).monitors = s.monitors := rfl
@[simp] theorem raiseDue_monitors (f : FrameClass) : (s.raiseDue f).monitors = s.monitors := rfl

@[simp] theorem entryMade_monitors : s.entryMade.monitors = s.monitors := s.entryMade_same.monitors

@[simp] theorem moveEntry_monitors (u : Uplink) (e : Entry) : (s.moveEntry u e).monitors = s.monitors :=
  (s.moveEntry_same u e).monitors

@[simp] theorem refindAll_monitors (us : List Uplink) : (s.refindAll us).monitors = s.monitors := (s.refindAll_same us).monitors

@[simp] theorem startSettling_monitors : s.startSettling.monitors = s.monitors := by
  unfold startSettling; split <;> rfl

@[simp] theorem completeJob_monitors : s.completeJob.monitors = s.monitors := startSettling_monitors _

/-! ### The Uplink View's events -/

@[simp] theorem loseCard_monitors (c : CardId) : (s.loseCard c).monitors = s.monitors := refindAll_monitors _ _

@[simp] theorem appendIf_monitors (b : Option JournalBody) : (s.appendIf b).monitors = s.monitors := by
  cases b <;> rfl

@[simp] theorem applyFrame_monitors (c : CardId) (cls : FrameClass) (st : Statuses) :
    (s.applyFrame c cls st).monitors = s.monitors := by simp [applyFrame]

@[simp] theorem isolationStart_monitors : s.isolationStart.monitors = s.monitors := by
  simp only [isolationStart]; split <;> simp

@[simp] theorem isolationEnd_monitors : s.isolationEnd.monitors = s.monitors := rfl

@[simp] theorem setDraining_monitors (b : Bool) : (s.setDraining b).monitors = s.monitors := refindAll_monitors _ _

/-! ### The notice bus -/

@[simp] theorem setFramer_monitors (f : Framer) : (s.setFramer f).monitors = s.monitors := rfl

@[simp] theorem framingError_monitors (aborted : Bool) : (s.framingError aborted).monitors = s.monitors := by
  cases aborted <;> rfl

@[simp] theorem crcError_monitors (aborted : Bool) : (s.crcError aborted).monitors = s.monitors := by
  cases aborted <;> rfl

@[simp] theorem enterClashed_monitors : s.enterClashed.monitors = s.monitors := rfl

@[simp] theorem dispose_monitors (card : CardId) (cls : FrameClass) (st : Statuses) :
    (s.dispose card cls st).monitors = s.monitors := by
  simp only [dispose]
  split
  · split <;> rfl
  · simp

@[simp] theorem judge_monitors (aborted : Bool) (bits : BitVec 48) : (s.judge aborted bits).monitors = s.monitors := by
  unfold judge
  split
  · simp
  · split <;> simp

@[simp] theorem hear_monitors (aborted : Bool) (taken : List Bool) : (s.hear aborted taken).monitors = s.monitors := by
  rcases s.hear_cases aborted taken with ⟨-, e⟩ | ⟨-, -, e⟩ | ⟨-, -, e⟩ <;> simp [e]

@[simp] theorem startFrame_monitors : s.startFrame.monitors = s.monitors := rfl

@[simp] theorem loseArbitration_monitors (cls : FrameClass) (taken : List Bool) :
    (s.loseArbitration cls taken).monitors = s.monitors := rfl

@[simp] theorem countAbort_monitors (cls : FrameClass) : (s.countAbort cls).monitors = s.monitors := by
  simp only [countAbort]; split <;> rfl

@[simp] theorem abortFrame_monitors (cls : FrameClass) (taken : List Bool) :
    (s.abortFrame cls taken).monitors = s.monitors := by simp [abortFrame]

@[simp] theorem completeFrame_monitors (cls : FrameClass) : (s.completeFrame cls).monitors = s.monitors := rfl

@[simp] theorem readBack_monitors (cls : FrameClass) (st : Statuses) (sent : Nat) (b : Bool) :
    (s.readBack cls st sent b).monitors = s.monitors := by
  cases own : (lineBits cls s.start.cardId st)[sent]? with
  | none => simp [readBack, own]
  | some x =>
    rcases s.readBack_cases cls st sent x b own with ⟨-, -, e⟩ | ⟨-, -, e⟩ | ⟨-, -, e⟩ | ⟨-, -, e⟩ <;> simp [e]

@[simp] theorem startEdge_monitors (idle : Nat) : (s.startEdge idle).monitors = s.monitors := by
  rcases s.startEdge_cases idle with ⟨-, e⟩ | ⟨-, -, e⟩ | ⟨-, -, e⟩ <;> simp [e]

@[simp] theorem takeBit_monitors (b : Bool) : (s.takeBit b).monitors = s.monitors := by
  unfold takeBit
  split
  · rfl
  · split <;> simp
  · simp
  · simp

@[simp] theorem takeBits_monitors (bits : List Bool) : (s.takeBits bits).monitors = s.monitors := by
  induction bits generalizing s with
  | nil => rfl
  | cons b bits ih => rw [takeBits_cons, ih, takeBit_monitors]

@[simp] theorem discardReception_monitors (receiving : Bool) : (s.discardReception receiving).monitors = s.monitors := by
  unfold discardReception
  split
  · simp
  · split <;> simp
  · rfl
  · rfl

@[simp] theorem enterFault_monitors (receiving : Bool) : (s.enterFault receiving).monitors = s.monitors := by
  simp [enterFault]

/-! ### Groups and the Repair Engine -/

@[simp] theorem handOutcome_monitors (g : GroupNo) (old new : Mode) (moved : Nat) :
    (s.handOutcome g old new moved).monitors = s.monitors := by
  simp only [handOutcome, withEngine_monitors]
  split <;> split <;> rfl

@[simp] theorem reconcileGroup_monitors (g : GroupNo) (snapshot : List Uplink) :
    (s.reconcileGroup g snapshot).monitors = s.monitors := by
  unfold reconcileGroup
  split <;> simp

@[simp] theorem installGroup_monitors (g : GroupNo) (r : Record) (snapshot : List Uplink) :
    (s.installGroup g r snapshot).monitors = s.monitors := by simp [installGroup]

@[simp] theorem releaseGroup_monitors (g : GroupNo) : (s.releaseGroup g).monitors = s.monitors := by simp [releaseGroup]

@[simp] theorem walkOn_monitors (job : Job) (position : Option GroupNo) : (s.walkOn job position).monitors = s.monitors := by
  unfold walkOn
  split <;> simp

@[simp] theorem suspend_monitors (job : Job) (position : GroupNo) : (s.suspend job position).monitors = s.monitors := by
  unfold suspend
  split
  · split <;> rfl
  all_goals rfl

@[simp] theorem boundary_monitors (job : Job) (position : GroupNo) : (s.boundary job position).monitors = s.monitors := by
  unfold boundary
  split <;> simp

@[simp] theorem begin_monitors (taken : Taken) : (s.begin taken).monitors = s.monitors := by
  cases taken with
  | build g => simp only [State.begin, beginBuild]; split <;> simp
  | urgent w => simp [State.begin]
  | sweep e => simp [State.begin]
  | calm w => simp [State.begin]

@[simp] theorem closeEpisode_monitors (e : Episode) : (s.closeEpisode e).monitors = s.monitors := rfl

/-! ### The table port and the Start-up Loader -/

@[simp] theorem respond_monitors (c : StatusCode) (data : List Byte) : (s.respond c data).monitors = s.monitors := rfl
@[simp] theorem usedFree_monitors (n : Nat) : (s.usedFree n).monitors = s.monitors := rfl
@[simp] theorem setStaging_monitors (r : Record) : (s.setStaging r).monitors = s.monitors := rfl
@[simp] theorem releasePort_monitors : s.releasePort.monitors = s.monitors := rfl
@[simp] theorem selectPort_monitors : s.selectPort.monitors = s.monitors := rfl

@[simp] theorem putPending_monitors (g : GroupNo) (k : PendingKind) : (s.putPending g k).monitors = s.monitors := by
  unfold putPending
  split <;> simp

@[simp] theorem beginLoad_monitors (straps : CardId) : (s.beginLoad straps).monitors = s.monitors := by
  unfold beginLoad
  split <;> rfl

@[simp] theorem placeSweep_monitors : s.placeSweep.monitors = s.monitors := by simp [placeSweep]

@[simp] theorem startServing_monitors : s.startServing.monitors = s.monitors := rfl

@[simp] theorem enterServe_monitors : s.enterServe.monitors = s.monitors := by
  simp only [enterServe]
  split
  · simp
  · split <;> simp

/-- A command that comes in on the port does to the monitors what its effect does, or nothing. -/
theorem takeCommand_monitors_of (inPhase : Bool) (effect : State → State) (h : (effect s).monitors = s.monitors) :
    (s.takeCommand inPhase effect).monitors = s.monitors := by
  rcases s.takeCommand_cases inPhase effect with ⟨-, -, e⟩ | ⟨-, -, e⟩ | ⟨-, e⟩ | ⟨-, e⟩
  · rw [e, h]
  · rw [e]; rfl
  · rw [e]
  · rw [e]

end State

end Sys2Proof.Machine
end

section
/-! What a command can make of one monitor (`Monitor.Moves`), and that the commands which act on the monitors make no more of one: the
edges, the timers, the decay tick, READ_COUNTERS, the resets and the end of loading. -/

namespace Sys2Proof

/-- Writing back what a place holds changes nothing. -/
@[simp] theorem setAt_self {α : Type} {n : Nat} (v : Vector α n) (i : Fin n) : setAt v i v[i.val] = v := by
  simp [setAt]

namespace Machine

/-! ### One port of a decay tick -/

/-- A decay tick at a monitor: one in OFF is passed by (R1, R23). -/
def Monitor.ticked (c : Settings) (m : Monitor) : Monitor := if m.state = .off then m else m.decayed c

@[simp] theorem State.setMonitor_monitors (p : Port) (m : Monitor) (s : State) :
    (s.setMonitor p m).monitors = setAt s.monitors p m := rfl

/-- A monitor replaced by itself changes nothing. -/
theorem State.setMonitor_self (p : Port) (s : State) : s.setMonitor p s.monitors[p] = s := by
  simp [State.setMonitor, State.withMonitors]

/-- What a change of status hands on leaves the monitors and the settings as they are (R38, R72). -/
theorem State.handStatus_frame (p : Port) (old : PortStatus) (s : State) :
    (s.handStatus p old).monitors = s.monitors ∧ (s.handStatus p old).start = s.start := by
  unfold State.handStatus
  split
  · exact ⟨rfl, rfl⟩
  · split <;> exact ⟨(State.refind_same _ _).monitors, (State.refind_same _ _).start⟩

/-- One port of a tick: its monitor ticks, and a change of its status is handed on. -/
theorem State.decayPort_eq (p : Port) (s : State) :
    s.decayPort p = (s.setMonitor p (s.monitors[p].ticked s.start.settings)).handStatus p (s.reported p) := by
  unfold State.decayPort Monitor.ticked
  split
  · rw [State.setMonitor_self, State.handStatus, if_pos rfl]
  · rfl

theorem State.decayPort_monitors (p : Port) (s : State) :
    (s.decayPort p).monitors = setAt s.monitors p (s.monitors[p].ticked s.start.settings) := by
  rw [State.decayPort_eq, (State.handStatus_frame _ _ _).1, State.setMonitor_monitors]

theorem State.decayPort_start (p : Port) (s : State) : (s.decayPort p).start = s.start := by
  rw [State.decayPort_eq]
  exact (State.handStatus_frame _ _ _).2

/-- The ports of one tick: each acts once, under the settings as they stand. -/
theorem State.foldl_decayPort_monitors (ps : List Port) (nd : ps.Nodup) (s : State) (q : Port) :
    (ps.foldl State.decayPort s).monitors[q] =
      if q ∈ ps then s.monitors[q].ticked s.start.settings else s.monitors[q] := by
  induction ps generalizing s with
  | nil => simp
  | cons p ps ih =>
    obtain ⟨hp, nd'⟩ := List.nodup_cons.1 nd
    rw [List.foldl_cons, ih nd', State.decayPort_start, State.decayPort_monitors, setAt_get]
    by_cases e : p = q
    · subst e; simp [hp]
    · have e' : q ≠ p := fun k => e k.symm
      simp [e, e']

/-! ### What a command makes of a monitor -/

/-- What a command can make of one monitor. -/
inductive Monitor.Moves : Instr → Monitor → Monitor → Prop
  | kept (c : Instr) (m : Monitor) : Moves c m m
  | fell (p : Port) (out : Nat) (m : Monitor) : Moves (.lightFall p) m { m with state := m.state.fall out }
  | rose (p : Port) (out : Nat) (m : Monitor) : Moves (.lightRise p) m (m.rise out)
  | lost (p : Port) (cfg : Settings) (o : Origin) (out : Nat) (m : Monitor) (h : m.state = .fading o out) :
      Moves (.lossTimerExpiry p) m (m.confirmLoss cfg)
  | returned (p : Port) (out : Nat) (m : Monitor) (h : m.state = .returning out) :
      Moves (.returnTimerExpiry p) m { m with state := if m.suppressed then .held else .up }
  | ticked (cfg : Settings) (m : Monitor) : Moves .decayTick m (m.ticked cfg)
  | cleared (m : Monitor) : Moves .readCounters m { m with losses := 0#16, glitches := 0#16 }
  | poweredUp (straps : CardId) (m : Monitor) : Moves (.powerUp straps) m .cold
  | coldReset (m : Monitor) : Moves .resetNAsserted m .cold
  | warmReset (m : Monitor) : Moves .warmNAsserted m m.warm
  | released (r : Deselect) (m : Monitor) : Moves (.chipSelectRelease r) m m.warm
  | takenUp (rom : RomRead) (watched light : Bool) (out : Nat) (m : Monitor) :
      Moves (.endOfLoading rom) m (m.takeUp watched light out)

theorem Monitor.Moves.of_eq {c : Instr} {m n : Monitor} (h : n = m) : Monitor.Moves c m n := h ▸ .kept c m

/-- A monitor replaced at one port is a move there and none elsewhere. -/
theorem Monitor.Moves.of_setAt {c : Instr} {v : Vector Monitor 8} {p : Port} {m : Monitor} (h : Monitor.Moves c v[p] m)
    (q : Port) : Monitor.Moves c v[q] (setAt v p m)[q] := by
  rw [setAt_get]
  by_cases e : p = q
  · subst e; simpa using h
  · simpa [e] using .kept c _

theorem State.lightFall_moves (p q : Port) (s t : State) (h : execLightFall p s = .next t) :
    Monitor.Moves (.lightFall p) s.monitors[q] t.monitors[q] := by
  obtain rfl := Host.Outcome.next.inj h
  dsimp only
  split
  · split
    · exact .kept _ _
    · exact .of_setAt (.fell p _ _) q
  · exact .kept _ _

theorem State.lightRise_moves (p q : Port) (s t : State) (h : execLightRise p s = .next t) :
    Monitor.Moves (.lightRise p) s.monitors[q] t.monitors[q] := by
  obtain rfl := Host.Outcome.next.inj h
  dsimp only
  split
  · exact .kept _ _
  · split
    · exact .kept _ _
    · exact .of_setAt (.rose p _ _) q

theorem State.lossTimerExpiry_moves (p q : Port) (s t : State) (h : execLossTimerExpiry p s = .next t) :
    Monitor.Moves (.lossTimerExpiry p) s.monitors[q] t.monitors[q] := by
  obtain rfl := Host.Outcome.next.inj h
  split
  · next o out e =>
    rw [(State.handStatus_frame _ _ _).1]
    exact .of_setAt (.lost p _ o out _ e) q
  all_goals exact .kept _ _

theorem State.returnTimerExpiry_moves (p q : Port) (s t : State) (h : execReturnTimerExpiry p s = .next t) :
    Monitor.Moves (.returnTimerExpiry p) s.monitors[q] t.monitors[q] := by
  obtain rfl := Host.Outcome.next.inj h
  split
  · next out e =>
    rw [(State.handStatus_frame _ _ _).1]
    exact .of_setAt (.returned p out _ e) q
  all_goals exact .kept _ _

theorem State.decayTick_moves (q : Port) (s t : State) (h : execDecayTick s = .next t) :
    Monitor.Moves .decayTick s.monitors[q] t.monitors[q] := by
  obtain rfl := Host.Outcome.next.inj h
  split
  · exact .kept _ _
  · rw [State.foldl_decayPort_monitors _ (List.nodup_finRange 8), if_pos (List.mem_finRange q)]
    exact .ticked _ _

theorem State.readCounters_moves (q : Port) (s t : State) (h : execReadCounters s = .next t) :
    Monitor.Moves .readCounters s.monitors[q] t.monitors[q] := by
  obtain rfl := Host.Outcome.next.inj h
  rcases s.takeCommand_cases (!s.isLoading) fun t => t.clearCounters.respond .ok (t.counters.flatMap bytesOf)
    with ⟨-, -, e⟩ | ⟨-, -, e⟩ | ⟨-, e⟩ | ⟨-, e⟩ <;> rw [e]
  · have e' : (s.clearCounters.respond .ok (s.counters.flatMap bytesOf)).monitors[q] =
        { s.monitors[q] with losses := 0#16, glitches := 0#16 } := by simp [State.clearCounters]
    rw [e']
    exact .cleared _
  all_goals exact .kept _ _

theorem State.coldReset_monitor (s : State) (q : Port) : s.coldReset.monitors[q] = Monitor.cold := by
  simp [State.coldReset]

theorem State.warmReset_monitor (s : State) (q : Port) : s.warmReset.monitors[q] = s.monitors[q].warm := by
  simp [State.warmReset]

theorem State.powerUp_moves (straps : CardId) (q : Port) (s t : State) (h : execPowerUp straps s = .next t) :
    Monitor.Moves (.powerUp straps) s.monitors[q] t.monitors[q] := by
  obtain rfl := Host.Outcome.next.inj h
  rw [State.beginLoad_monitors, State.coldReset_monitor]
  exact .poweredUp _ _

theorem State.resetNAsserted_moves (q : Port) (s t : State) (h : execResetNAsserted s = .next t) :
    Monitor.Moves .resetNAsserted s.monitors[q] t.monitors[q] := by
  obtain rfl := Host.Outcome.next.inj h
  split
  · exact .kept _ _
  · rw [State.coldReset_monitor]
    exact .coldReset _

theorem State.warmNAsserted_moves (q : Port) (s t : State) (h : execWarmNAsserted s = .next t) :
    Monitor.Moves .warmNAsserted s.monitors[q] t.monitors[q] := by
  obtain rfl := Host.Outcome.next.inj h
  dsimp only
  split
  · exact .kept _ _
  · split
    · exact .kept _ _
    · rw [State.warmReset_monitor]
      exact .warmReset _

theorem State.chipSelectRelease_moves (r : Deselect) (q : Port) (s t : State) (h : execChipSelectRelease r s = .next t) :
    Monitor.Moves (.chipSelectRelease r) s.monitors[q] t.monitors[q] := by
  obtain rfl := Host.Outcome.next.inj h
  have e : ∀ u : State, (if r.again = true then u.selectPort else u).monitors[q] = u.monitors[q] := fun u => by
    split <;> rfl
  dsimp only
  rw [e]
  cases s.port.warmOrdered
  · exact .kept _ _
  · simp only [if_true, State.beginLoad_monitors, State.warmReset_monitor]
    exact .released r _

/-! ### The end of loading -/

/-- The monitors as they take up their lines under new settings (R15). -/
def State.takenUp (c : Settings) (s : State) : Vector Monitor 8 :=
  Vector.ofFn fun p => s.monitors[p].takeUp (c.watch.getLsbD p.val) s.pins.light[p] (s.clock.now + ms c.returnDebounce)

/-- The Journal at the end of loading: the configuration record, if any, and after a warm start PENDING_DISCARDED (R125, R170). -/
def State.startJournal (noted : Option JournalBody) (s : State) : Journal :=
  let j := match noted with
    | some b => s.journal.append ⟨b, s.clock.timeBase⟩
    | none => s.journal
  match s.start.kind with
  | .cold => j
  | .warm => j.append ⟨.pendingDiscarded s.engine.discarded, s.clock.timeBase⟩

/-- The end of loading, block by block (R15, R22, R47, R69, R125, R171, R172). -/
theorem State.finishLoading_eq (c : Settings) (noted : Option JournalBody) (s : State) : s.finishLoading c noted =
    { s with
      clock := { s.clock with nextTick := some (s.clock.now + ms c.decayTick) }
      start := { s.start with settings := c, phase := .listen (s.clock.now + ms c.presenceWindow) }
      monitors := s.takenUp c
      view := { s.view with
        cards := setAt s.view.cards s.start.cardId { s.view.cards[s.start.cardId] with presence := .self }
        entries := Vector.ofFn fun u =>
          if cardOf u = s.start.cardId then
            { s.view.entries[u] with state := .dark (s.takenUp c)[portOf u].state.status.reason }
          else s.view.entries[u] }
      bus := { s.bus with ctl := .open, framer := .gap 0 }
      engine := { s.engine with discarded := 0 }
      journal := s.startJournal noted } := by
  obtain ⟨pins, clock, ⟨phase, kind, cardId, settings⟩, monitors, view, bus, sender, store, engine, lookup, port, journal,
    model, pending⟩ := s
  cases noted <;> cases kind <;> rfl

theorem State.takenUp_get (c : Settings) (s : State) (p : Port) : (s.takenUp c)[p] =
    s.monitors[p].takeUp (c.watch.getLsbD p.val) s.pins.light[p] (s.clock.now + ms c.returnDebounce) := by
  simp [State.takenUp]

theorem State.finishLoading_monitor (c : Settings) (noted : Option JournalBody) (s : State) (p : Port) :
    (s.finishLoading c noted).monitors[p] =
      s.monitors[p].takeUp (c.watch.getLsbD p.val) s.pins.light[p] (s.clock.now + ms c.returnDebounce) := by
  simp only [State.finishLoading_eq]
  exact s.takenUp_get c p

theorem State.endOfLoading_moves (rom : RomRead) (q : Port) (s t : State) (h : execEndOfLoading rom s = .next t) :
    Monitor.Moves (.endOfLoading rom) s.monitors[q] t.monitors[q] := by
  obtain rfl := Host.Outcome.next.inj h
  dsimp only
  split
  · rw [State.finishLoading_monitor]
    exact .takenUp rom _ _ _ _
  · rw [State.finishLoading_monitor]
    exact .takenUp rom _ _ _ _
  all_goals exact .kept _ _

end Machine

end Sys2Proof
end

section
/-! Every command at the monitors: those of the other blocks leave them as they are, and `exec_moves` says what all fifty can make of
one. -/

namespace Sys2Proof.Machine

/-! ### The commands that leave the monitors as they are -/

section

variable {s t : State}

theorem execAdmissionDeadline_monitors (u : Uplink) (h : execAdmissionDeadline u s = .next t) : t.monitors = s.monitors := by
  obtain rfl := Host.Outcome.next.inj h
  split <;> simp

theorem execPresenceDeadline_monitors (c : CardId) (h : execPresenceDeadline c s = .next t) : t.monitors = s.monitors := by
  obtain rfl := Host.Outcome.next.inj h
  split <;> simp

theorem execFrameReceived_monitors (gap : Nat) (bits : List Bool) (h : execFrameReceived gap bits s = .next t) :
    t.monitors = s.monitors := by
  obtain rfl := Host.Outcome.next.inj h
  split
  · split <;> simp
  · rfl

theorem execFrameStart_monitors (gap : Nat) (edge : Bool) (h : execFrameStart gap edge s = .next t) :
    t.monitors = s.monitors := by
  obtain rfl := Host.Outcome.next.inj h
  split
  · split
    · split
      · simp
      · split <;> simp
    all_goals rfl
  · rfl

theorem execArbitrationLost_monitors (h : execArbitrationLost s = .next t) : t.monitors = s.monitors := by
  obtain rfl := Host.Outcome.next.inj h
  split
  · dsimp only
    split <;> simp
  all_goals rfl

theorem execAbort_monitors (h : execAbort s = .next t) : t.monitors = s.monitors := by
  obtain rfl := Host.Outcome.next.inj h
  split
  · dsimp only
    split
    · simp
    · split <;> simp
  all_goals rfl

theorem execFrameComplete_monitors (h : execFrameComplete s = .next t) : t.monitors = s.monitors := by
  obtain rfl := Host.Outcome.next.inj h
  split <;> simp

theorem execMuteTimerExpiry_monitors (h : execMuteTimerExpiry s = .next t) : t.monitors = s.monitors := by
  obtain rfl := Host.Outcome.next.inj h
  split <;> simp

theorem execBeaconTimerExpiry_monitors (h : execBeaconTimerExpiry s = .next t) : t.monitors = s.monitors := by
  obtain rfl := Host.Outcome.next.inj h
  split <;> simp

theorem execStuckLine_monitors (stretch : Nat) (receiving : Bool) (h : execStuckLine stretch receiving s = .next t) :
    t.monitors = s.monitors := by
  obtain rfl := Host.Outcome.next.inj h
  split <;> simp

theorem execFaultRecovery_monitors (recessive : Nat) (h : execFaultRecovery recessive s = .next t) :
    t.monitors = s.monitors := by
  obtain rfl := Host.Outcome.next.inj h
  split
  · split <;> simp
  all_goals rfl

theorem execArbiterTake_monitors (h : execArbiterTake s = .next t) : t.monitors = s.monitors := by
  obtain rfl := Host.Outcome.next.inj h
  split
  · rfl
  · split <;> simp

theorem execReconcile_monitors (time : SnapshotTime) (h : execReconcile time s = .next t) : t.monitors = s.monitors := by
  obtain rfl := Host.Outcome.next.inj h
  split
  · rfl
  · split <;> simp

theorem execInstallation_monitors (h : execInstallation s = .next t) : t.monitors = s.monitors := by
  obtain rfl := Host.Outcome.next.inj h
  split <;> simp

theorem execSettleDeadline_monitors (h : execSettleDeadline s = .next t) : t.monitors = s.monitors := by
  obtain rfl := Host.Outcome.next.inj h
  split
  · rfl
  · split
    · rfl
    · split <;> simp

theorem execLookupRequest_monitors (word : BitVec 34) (h : execLookupRequest word s = .next t) :
    t.monitors = s.monitors := by
  obtain rfl := Host.Outcome.next.inj h
  split <;> rfl

theorem execAnswer_monitors (h : execAnswer s = .next t) : t.monitors = s.monitors := by
  obtain rfl := Host.Outcome.next.inj h
  split <;> rfl

theorem execDropUplink_monitors (h : execDropUplink s = .next t) : t.monitors = s.monitors := by
  obtain rfl := Host.Outcome.next.inj h
  split <;> rfl

theorem execDropGroup_monitors (h : execDropGroup s = .next t) : t.monitors = s.monitors := by
  obtain rfl := Host.Outcome.next.inj h
  split <;> rfl

theorem execDropAll_monitors (h : execDropAll s = .next t) : t.monitors = s.monitors := by
  obtain rfl := Host.Outcome.next.inj h
  split <;> rfl

/-- A command that comes in on the port, where its effect leaves the monitors as they are. -/
theorem takeCommand_next_monitors {inPhase : Bool} {effect : State → State}
    (h : Host.Outcome.next (s.takeCommand inPhase effect) = (.next t : Host.Outcome State Fault Refusal))
    (e : (effect s).monitors = s.monitors) : t.monitors = s.monitors :=
  Host.Outcome.next.inj h ▸ State.takeCommand_monitors_of s inPhase effect e

theorem execStatus_monitors (h : execStatus s = .next t) : t.monitors = s.monitors := takeCommand_next_monitors h rfl

theorem execStageClear_monitors (h : execStageClear s = .next t) : t.monitors = s.monitors := takeCommand_next_monitors h rfl

theorem execStageMember_monitors (b0 b1 : Byte) (h : execStageMember b0 b1 s = .next t) :
    t.monitors = s.monitors := takeCommand_next_monitors h rfl

theorem execStageOptions_monitors (b0 b1 : Byte) (h : execStageOptions b0 b1 s = .next t) :
    t.monitors = s.monitors := takeCommand_next_monitors h rfl

theorem execCommit_monitors (b0 b1 : Byte) (h : execCommit b0 b1 s = .next t) : t.monitors = s.monitors := by
  refine takeCommand_next_monitors h ?_
  split
  · rfl
  · split <;> simp

theorem execRelease_monitors (b0 b1 : Byte) (h : execRelease b0 b1 s = .next t) : t.monitors = s.monitors := by
  refine takeCommand_next_monitors h ?_
  split <;> simp

theorem execReadGroup_monitors (b0 b1 : Byte) (h : execReadGroup b0 b1 s = .next t) :
    t.monitors = s.monitors := takeCommand_next_monitors h rfl

theorem execReadSpread_monitors (b0 b1 : Byte) (h : execReadSpread b0 b1 s = .next t) :
    t.monitors = s.monitors := takeCommand_next_monitors h rfl

theorem execReadView_monitors (b0 : Byte) (h : execReadView b0 s = .next t) :
    t.monitors = s.monitors := takeCommand_next_monitors h rfl

theorem execReadCards_monitors (h : execReadCards s = .next t) : t.monitors = s.monitors := takeCommand_next_monitors h rfl

theorem execReadJournal_monitors (b0 : Byte) (h : execReadJournal b0 s = .next t) :
    t.monitors = s.monitors := takeCommand_next_monitors h rfl

theorem execDrain_monitors (h : execDrain s = .next t) : t.monitors = s.monitors := by
  refine takeCommand_next_monitors h ?_
  split
  · rfl
  · split <;> simp

theorem execUndrain_monitors (h : execUndrain s = .next t) : t.monitors = s.monitors := by
  refine takeCommand_next_monitors h ?_
  dsimp only
  split <;> simp

theorem execWarmReset_monitors (h : execWarmReset s = .next t) : t.monitors = s.monitors := takeCommand_next_monitors h rfl

theorem execUnknownCommand_monitors (byte : Byte) (h : execUnknownCommand byte s = .next t) : t.monitors = s.monitors := by
  obtain rfl := Host.Outcome.next.inj h
  split
  · rfl
  · exact State.takeCommand_monitors_of _ _ _ rfl

theorem execResetNReleased_monitors (straps : CardId) (h : execResetNReleased straps s = .next t) :
    t.monitors = s.monitors := by
  obtain rfl := Host.Outcome.next.inj h
  split <;> simp

theorem execWarmNReleased_monitors (straps : CardId) (h : execWarmNReleased straps s = .next t) :
    t.monitors = s.monitors := by
  obtain rfl := Host.Outcome.next.inj h
  split <;> simp

theorem execLoadTimeout_monitors (h : execLoadTimeout s = .next t) : t.monitors = s.monitors := by
  obtain rfl := Host.Outcome.next.inj h
  split <;> rfl

theorem execListenDeadline_monitors (h : execListenDeadline s = .next t) : t.monitors = s.monitors := by
  obtain rfl := Host.Outcome.next.inj h
  split <;> simp

end

/-! ### Every command -/

/-- What a command makes of the monitor of one port is among its moves. -/
theorem exec_moves (c : Instr) (p : Port) (s t : State) (h : exec c s = .next t) :
    Monitor.Moves c s.monitors[p] t.monitors[p] := by
  have kept : t.monitors = s.monitors → Monitor.Moves c s.monitors[p] t.monitors[p] := fun e => .of_eq (by rw [e])
  cases c with
  | lightFall q => exact State.lightFall_moves q p s t h
  | lightRise q => exact State.lightRise_moves q p s t h
  | lossTimerExpiry q => exact State.lossTimerExpiry_moves q p s t h
  | returnTimerExpiry q => exact State.returnTimerExpiry_moves q p s t h
  | decayTick => exact State.decayTick_moves p s t h
  | admissionDeadline _ => exact kept (execAdmissionDeadline_monitors _ h)
  | presenceDeadline _ => exact kept (execPresenceDeadline_monitors _ h)
  | frameReceived _ _ => exact kept (execFrameReceived_monitors _ _ h)
  | frameStart _ _ => exact kept (execFrameStart_monitors _ _ h)
  | arbitrationLost => exact kept (execArbitrationLost_monitors h)
  | abort => exact kept (execAbort_monitors h)
  | frameComplete => exact kept (execFrameComplete_monitors h)
  | muteTimerExpiry => exact kept (execMuteTimerExpiry_monitors h)
  | beaconTimerExpiry => exact kept (execBeaconTimerExpiry_monitors h)
  | stuckLine _ _ => exact kept (execStuckLine_monitors _ _ h)
  | faultRecovery _ => exact kept (execFaultRecovery_monitors _ h)
  | arbiterTake => exact kept (execArbiterTake_monitors h)
  | reconcile _ => exact kept (execReconcile_monitors _ h)
  | installation => exact kept (execInstallation_monitors h)
  | settleDeadline => exact kept (execSettleDeadline_monitors h)
  | lookupRequest _ => exact kept (execLookupRequest_monitors _ h)
  | answer => exact kept (execAnswer_monitors h)
  | dropUplink => exact kept (execDropUplink_monitors h)
  | dropGroup => exact kept (execDropGroup_monitors h)
  | dropAll => exact kept (execDropAll_monitors h)
  | status => exact kept (execStatus_monitors h)
  | stageClear => exact kept (execStageClear_monitors h)
  | stageMember _ _ => exact kept (execStageMember_monitors _ _ h)
  | stageOptions _ _ => exact kept (execStageOptions_monitors _ _ h)
  | commit _ _ => exact kept (execCommit_monitors _ _ h)
  | release _ _ => exact kept (execRelease_monitors _ _ h)
  | readGroup _ _ => exact kept (execReadGroup_monitors _ _ h)
  | readSpread _ _ => exact kept (execReadSpread_monitors _ _ h)
  | readView _ => exact kept (execReadView_monitors _ h)
  | readCards => exact kept (execReadCards_monitors h)
  | readJournal _ => exact kept (execReadJournal_monitors _ h)
  | readCounters => exact State.readCounters_moves p s t h
  | drain => exact kept (execDrain_monitors h)
  | undrain => exact kept (execUndrain_monitors h)
  | warmReset => exact kept (execWarmReset_monitors h)
  | unknownCommand _ => exact kept (execUnknownCommand_monitors _ h)
  | chipSelectRelease r => exact State.chipSelectRelease_moves r p s t h
  | powerUp straps => exact State.powerUp_moves straps p s t h
  | resetNAsserted => exact State.resetNAsserted_moves p s t h
  | resetNReleased _ => exact kept (execResetNReleased_monitors _ h)
  | warmNAsserted => exact State.warmNAsserted_moves p s t h
  | warmNReleased _ => exact kept (execWarmNReleased_monitors _ h)
  | loadTimeout => exact kept (execLoadTimeout_monitors h)
  | endOfLoading rom => exact State.endOfLoading_moves rom p s t h
  | listenDeadline => exact kept (execListenDeadline_monitors h)

end Sys2Proof.Machine
end

section
/-! The two invariants of the monitors, from what every command makes of one monitor: the damping law (R12, R19, R27), with the decay of
a figure (R23), and the frozen ports in OFF (R1, R19). -/

namespace Sys2Proof.Machine

/-! ### The damping law (R12, R19, R27) -/

theorem Monitor.Law.of_notHeld {m : Monitor} (figure : m.penalty ≤ Config.penaltyMax) (h : m.state.isHeld = false) : m.Law :=
  ⟨figure, fun k => by rw [h] at k; cases k⟩

theorem Monitor.Law.rise {m : Monitor} (law : m.Law) (out : Nat) : (m.rise out).Law := by
  obtain ⟨figure, held⟩ := law
  unfold Monitor.rise
  split
  case h_1 => exact .of_notHeld figure rfl
  case h_2 => exact .of_notHeld figure rfl
  case h_3 e => exact ⟨figure, fun _ => held (by rw [e]; rfl)⟩
  all_goals exact ⟨figure, held⟩

theorem MonitorState.fall_isHeld (out : Nat) (x : MonitorState) : (x.fall out).isHeld = x.isHeld := by
  cases x <;> rfl

theorem MonitorState.released_notHeld (x : MonitorState) : x.released.isHeld = false := by
  rcases x with _ | _ | ⟨o, t⟩ | _ | _ | _
  case fading => cases o <;> rfl
  all_goals rfl

theorem Monitor.Law.decayed {m : Monitor} (law : m.Law) (c : Settings) : (m.decayed c).Law := by
  have figure : m.penalty - decrement c.decayRate m.penalty ≤ Config.penaltyMax := (Nat.sub_le _ _).trans law.figure
  simp only [Monitor.decayed]
  split
  · exact .of_notHeld figure (MonitorState.released_notHeld _)
  · exact ⟨figure, law.held⟩

/-- Every move of a monitor keeps its damping law. -/
theorem Monitor.Moves.law {c : Instr} {m n : Monitor} (h : Monitor.Moves c m n) (law : m.Law) : n.Law := by
  have figure := law.figure
  cases h with
  | kept => exact law
  | fell p out => exact ⟨figure, fun k => law.held (by rwa [MonitorState.fall_isHeld] at k)⟩
  | rose p out => exact law.rise out
  | lost => exact .of_notHeld (Nat.min_le_right _ _) rfl
  | returned =>
    refine ⟨figure, fun k => ?_⟩
    cases hs : m.suppressed with
    | true => rfl
    | false => simp [hs, MonitorState.isHeld] at k
  | ticked cfg =>
    unfold Monitor.ticked
    split
    · exact law
    · exact law.decayed cfg
  | cleared => exact ⟨figure, law.held⟩
  | poweredUp => exact .of_notHeld (Nat.zero_le _) rfl
  | coldReset => exact .of_notHeld (Nat.zero_le _) rfl
  | warmReset => exact .of_notHeld figure rfl
  | released => exact .of_notHeld figure rfl
  | takenUp rom watched light out =>
    refine .of_notHeld figure ?_
    cases watched <;> cases light <;> rfl

theorem exec_dampingLaw (c : Instr) (s t : State) (law : s.DampingLaw) (h : exec c s = .next t) : t.DampingLaw :=
  fun p => (exec_moves c p s t h).law (law p)

/-- Every step keeps the damping law of every port. -/
theorem step_dampingLaw (s t : State) (law : s.DampingLaw) (h : step s = .next t) : t.DampingLaw := by
  unfold step at h
  split at h
  · obtain rfl := Host.Outcome.next.inj h
    exact law
  · next c rest _ => exact exec_dampingLaw c (s.withPending rest) t law h

/-! ### The decay of a figure (R23) -/

theorem decrement_pos (rate figure : Nat) (h : 0 < figure) : 1 ≤ decrement rate figure := by
  unfold decrement
  split <;> omega

theorem decrement_le (rate figure : Nat) (h : rate ≤ 512) : decrement rate figure ≤ figure := by
  unfold decrement
  split
  · omega
  · have : figure * rate ≤ figure * 1024 := Nat.mul_le_mul_left figure (by omega)
    omega

/-- After `n` ticks at least `n` has gone, as far as the figure goes. -/
theorem decay_iterate_le (rate n figure : Nat) : (fun x => x - decrement rate x)^[n] figure ≤ figure - n := by
  induction n with
  | zero => simp
  | succ n ih =>
    rw [Function.iterate_succ_apply']
    generalize (fun x => x - decrement rate x)^[n] figure = x at ih
    have := decrement_pos rate x
    omega

/-- Settles O10: every move that a command can make of a monitor keeps the law, and a figure loses at least 1 a tick. -/
theorem dampingLawIsKept : Obligations.DampingLawIsKept :=
  ⟨step_dampingLaw, fun rate figure h =>
    ⟨decrement_le rate figure h, decrement_pos rate figure,
      Nat.le_zero.1 ((decay_iterate_le rate figure figure).trans (Nat.sub_self figure).le)⟩⟩

/-! ### The ports in OFF (R1, R19) -/

/-- Neither a reset nor the end of loading, the commands that can take a monitor out of OFF. -/
def keepsOff : Instr → Prop
  | .powerUp _ | .resetNAsserted | .warmNAsserted | .chipSelectRelease _ | .endOfLoading _ => False
  | _ => True

/-- Such a command leaves a monitor in OFF as it is, but for the counters that READ_COUNTERS clears. -/
theorem Monitor.Moves.off {c : Instr} {m n : Monitor} (h : Monitor.Moves c m n) (off : m.state = .off)
    (hc : keepsOff c) :
    n = m ∨ (c = .readCounters ∧ n = { m with losses := 0#16, glitches := 0#16 }) := by
  cases h with
  | kept => exact .inl rfl
  | fell p out =>
    have e : m.state.fall out = m.state := by rw [off]; rfl
    exact .inl (by rw [e])
  | rose p out => exact .inl (by simp [Monitor.rise, off])
  | lost p cfg o out _ e => rw [off] at e; cases e
  | returned p out _ e => rw [off] at e; cases e
  | ticked cfg => exact .inl (if_pos off)
  | cleared => exact .inr ⟨rfl, rfl⟩
  | poweredUp => exact hc.elim
  | coldReset => exact hc.elim
  | warmReset => exact hc.elim
  | released => exact hc.elim
  | takenUp => exact hc.elim

/-- Settles O11: of the moves a command can make of a monitor in OFF, only the clearing of its counters changes it. -/
theorem offPortsAreFrozen : Obligations.OffPortsAreFrozen := by
  intro c p s t h off hc
  rcases (exec_moves c p s t h).off off hc with e | ⟨rfl, e⟩
  · rw [e]
    exact ⟨off, rfl, rfl, fun _ => rfl⟩
  · rw [e]
    exact ⟨off, rfl, rfl, fun k => absurd rfl k⟩

end Sys2Proof.Machine
end

section
/-! The changes of reported status that the monitors hand on (R13, R35, R36, R38, R72): the two debounce timers and the decay tick. -/

namespace Sys2Proof

/-! ### Uplinks by card and port -/

@[simp] theorem cardOf_uplinkOf (c : CardId) (p : Port) : cardOf (uplinkOf c p) = c := by
  apply Fin.ext
  simp only [cardOf, uplinkOf]
  omega

@[simp] theorem portOf_uplinkOf (c : CardId) (p : Port) : portOf (uplinkOf c p) = p := by
  apply Fin.ext
  simp only [portOf, uplinkOf]
  omega

theorem uplinkOf_eq_iff (u : Uplink) (c : CardId) (p : Port) : u = uplinkOf c p ↔ cardOf u = c ∧ portOf u = p := by
  simp only [Fin.ext_iff, cardOf, portOf, uplinkOf]
  omega

namespace Machine

/-! ### A change of status handed on -/

theorem State.reported_setMonitor (p : Port) (m : Monitor) (s : State) : (s.setMonitor p m).reported p = m.state.status := by
  simp [State.reported]

/-- The standing of a port of the own card (R31). -/
theorem State.standing_own (p : Port) (s : State) (own : s.view.cards[s.start.cardId].presence = .self) :
    s.standing (uplinkOf s.start.cardId p) = if s.view.draining = true then .dark .withdrawn else (s.reported p).standing := by
  simp only [State.standing, cardOf_uplinkOf, portOf_uplinkOf, own]

/-- A change of port `p`'s status raises its due flag and moves the one own entry, which hands on what its move does. -/
theorem State.handStatus_effect (p : Port) (old : PortStatus) (f : FrameClass) (s : State)
    (due : dueFor old (s.reported p) = some f) :
    (s.raiseDue f).SameButEntries (s.handStatus p old) ∧ s.HandsOn [] (s.handStatus p old) ∧
      (s.handStatus p old).view.entries = setAt s.view.entries (uplinkOf s.start.cardId p)
        (s.view.entries[uplinkOf s.start.cardId p].applyStanding s.clock.now s.start.settings.admissionDelay
          (s.standing (uplinkOf s.start.cardId p))) := by
  have changed : old ≠ s.reported p := fun e => by
    rw [← e] at due
    cases old <;> cases due
  have eq : s.handStatus p old = (s.raiseDue f).refind (uplinkOf s.start.cardId p) := by
    rw [State.handStatus, if_neg changed, due]
  rw [eq]
  exact ⟨State.refind_same _ _, (State.moveEntry_handsOn _ _ (s.raiseDue f)).congr_first rfl rfl rfl rfl,
    State.refind_entries _ _⟩

/-- One entry replaced, read place by place. -/
theorem entries_of_setAt {v w : Vector Entry 128} {u : Uplink} {e : Entry} (h : w = setAt v u e) :
    (∀ x, x ≠ u → w[x] = v[x]) ∧ w[u] = e :=
  ⟨fun x hx => by rw [h]; exact setAt_other _ _ _ _ (Ne.symm hx), by rw [h]; exact setAt_same _ _ _⟩

/-! ### The debounce timers -/

theorem satInc_eq (c : Count16) : satInc c = if c = 65535#16 then 65535#16 else c + 1#16 := by
  unfold satInc
  split
  · next h => exact h
  · rfl

/-- A confirmed loss, field by field (R7, R20, R27). -/
theorem Monitor.confirmLoss_eq (c : Settings) (m : Monitor) : m.confirmLoss c =
    { state := .dark
      penalty := min (m.penalty + c.charge) 8191
      suppressed := m.suppressed || decide (c.suppress ≤ min (m.penalty + c.charge) 8191)
      losses := if m.losses = 65535#16 then 65535#16 else m.losses + 1#16
      glitches := m.glitches } := by
  rw [← satInc_eq]
  rfl

/-- At the end of a debounce the monitor of port `p` becomes `m`, and the change of its status, if it is one that has a due flag, is
handed on (R13, R38, R72). -/
theorem State.debounceEnd_effect (p : Port) (out : Nat) (m : Monitor) (st : PortStatus) (f : FrameClass) (s : State)
    (due : dueFor (s.reported p) st = some f) (status : m.state.status = st) :
    let t := ((s.advanceTo out).setMonitor p m).handStatus p (s.reported p)
    State.SameButEntries { s with
      clock := (s.advanceTo out).clock
      monitors := setAt s.monitors p m
      sender := s.sender.raise f } t ∧
    t.clock.now = max s.clock.now out ∧ s.HandsOn [] t ∧
    (∀ v, v ≠ uplinkOf s.start.cardId p → t.view.entries[v] = s.view.entries[v]) ∧
    (s.view.cards[s.start.cardId].presence = .self →
      t.view.entries[uplinkOf s.start.cardId p] =
        s.view.entries[uplinkOf s.start.cardId p].applyStanding (max s.clock.now out) s.start.settings.admissionDelay
          (if s.view.draining = true then .dark .withdrawn else st.standing)) := by
  have after : ((s.advanceTo out).setMonitor p m).reported p = st := (State.reported_setMonitor p m _).trans status
  obtain ⟨same, handsOn, entries⟩ := State.handStatus_effect p (s.reported p) f ((s.advanceTo out).setMonitor p m)
    (after.symm ▸ due)
  obtain ⟨others, moved⟩ := entries_of_setAt entries
  have now := State.advanceTo_now out s
  refine ⟨same, (congrArg Clock.now same.clock).trans now, handsOn.congr_first rfl rfl rfl rfl, others, fun own => ?_⟩
  rw [State.standing_own p ((s.advanceTo out).setMonitor p m) own, after] at moved
  rw [← now]
  exact moved

/-- Settles O6: the status passes from that of the origin to LOST, and is handed on as any change of status is. -/
theorem lossTimerExpiryConfirmsTheLoss : Obligations.LossTimerExpiryConfirmsTheLoss := by
  intro p o out s fading
  have run : exec (.lossTimerExpiry p) s = .next (((s.advanceTo out).setMonitor p
      (s.monitors[p].confirmLoss s.start.settings)).handStatus p (s.reported p)) := by
    simp only [exec, execLossTimerExpiry, fading]
    rfl
  rw [← Monitor.confirmLoss_eq]
  have before : s.reported p = MonitorState.status (.fading o out) := congrArg MonitorState.status fading
  have dark : ∀ (now delay : Nat) (e : Entry),
      e.applyStanding now delay (if s.view.draining = true then .dark .withdrawn else .dark .lost) =
        { e with state := .dark (if s.view.draining = true then .withdrawn else .lost) } := fun _ _ _ => by
    split <;> rfl
  cases o with
  | up =>
    obtain ⟨same, now, handsOn, others, own⟩ :=
      State.debounceEnd_effect p out (s.monitors[p].confirmLoss s.start.settings) .lost .loss s (by rw [before]; rfl) rfl
    exact ⟨_, run, same, now, handsOn, others, fun self => (own self).trans (dark _ _ _)⟩
  | held =>
    obtain ⟨same, now, handsOn, others, own⟩ :=
      State.debounceEnd_effect p out (s.monitors[p].confirmLoss s.start.settings) .lost .beacon s (by rw [before]; rfl) rfl
    exact ⟨_, run, same, now, handsOn, others, fun self => (own self).trans (dark _ _ _)⟩

/-- Settles O7: the status passes from LOST to HELD or UP, and is handed on as any change of status is. -/
theorem returnTimerExpiryReadsTheSuppressedFlag : Obligations.ReturnTimerExpiryReadsTheSuppressedFlag := by
  intro p out s returning
  have run : exec (.returnTimerExpiry p) s = .next (((s.advanceTo out).setMonitor p
      { s.monitors[p] with state := if s.monitors[p].suppressed = true then .held else .up }).handStatus p (s.reported p)) := by
    simp only [exec, execReturnTimerExpiry, returning]
    rfl
  refine ⟨_, run, ?_⟩
  have before : s.reported p = .lost := congrArg MonitorState.status returning
  by_cases hs : s.monitors[p].suppressed = true
  · simp only [if_pos hs]
    exact State.debounceEnd_effect p out _ .held .beacon s (by rw [before]; rfl) rfl
  · simp only [if_neg hs]
    exact State.debounceEnd_effect p out _ .up .return s (by rw [before]; rfl) rfl

end Machine

end Sys2Proof
end

section
/-! The decay tick (R22 to R24): what it makes of one monitor, what one port hands on, and the eight ports one after another. -/

namespace Sys2Proof.Machine

/-! ### One monitor -/

theorem decrement_eq (rate figure : Nat) : decrement rate figure =
    if figure * rate / 1024 = 0 then min 1 figure else figure * rate / 1024 := by
  unfold decrement
  split <;> split <;> omega

/-- The tick clears the suppressed flag (R24). -/
def Monitor.clears (c : Settings) (m : Monitor) : Bool :=
  m.suppressed && decide (m.penalty - decrement c.decayRate m.penalty ≤ c.reuse)

/-- The tick takes a monitor that is held back into service (R11, R12, R24). -/
def Monitor.frees (c : Settings) (m : Monitor) : Bool := m.clears c && m.state.isHeld

/-- A tick at a monitor that is not in OFF, field by field. -/
theorem Monitor.ticked_eq (c : Settings) (m : Monitor) (h : m.state ≠ .off) : m.ticked c =
    { state := if m.clears c = true then m.state.released else m.state
      penalty := m.penalty - decrement c.decayRate m.penalty
      suppressed := m.suppressed && !m.clears c
      losses := m.losses
      glitches := m.glitches } := by
  rw [Monitor.ticked, if_neg h]
  unfold Monitor.decayed
  change (if m.clears c = true then _ else _) = _
  cases k : m.clears c with
  | true => simp
  | false => simp

theorem MonitorState.isHeld_iff (x : MonitorState) : x.isHeld = true ↔ x.status = .held := by
  rcases x with _ | _ | ⟨o, t⟩ | _ | _ | _
  case fading => cases o <;> simp [MonitorState.isHeld, MonitorState.status]
  all_goals simp [MonitorState.isHeld, MonitorState.status]

/-- A release moves a state that is held to one that reports UP, and leaves every other (R11, R12). -/
theorem MonitorState.released_status (x : MonitorState) : x.released.status = if x.isHeld = true then .up else x.status := by
  rcases x with _ | _ | ⟨o, t⟩ | _ | _ | _
  case fading => cases o <;> rfl
  all_goals rfl

/-- The reported status after a tick (R24). -/
theorem Monitor.ticked_status (c : Settings) (m : Monitor) :
    (m.ticked c).state.status = if m.frees c = true then .up else m.state.status := by
  by_cases off : m.state = .off
  · rw [Monitor.ticked, if_pos off, Monitor.frees, off]
    simp [MonitorState.isHeld]
  · rw [Monitor.ticked_eq c m off, Monitor.frees]
    cases m.clears c with
    | true => simpa using m.state.released_status
    | false => rfl

/-- A tick changes the reported status exactly where it takes the monitor back into service. -/
theorem Monitor.ticked_status_ne_iff (c : Settings) (m : Monitor) :
    (m.ticked c).state.status ≠ m.state.status ↔ m.frees c = true := by
  rw [Monitor.ticked_status]
  cases k : m.frees c with
  | true =>
    have held : m.state.status = .held := m.state.isHeld_iff.1 (Bool.and_eq_true_iff.1 k).2
    simp [held]
  | false => simp

/-- A held monitor with its flag set is taken back into service exactly where the flag is clear afterwards. -/
theorem Monitor.frees_eq (c : Settings) (m : Monitor) :
    m.frees c = (m.suppressed && m.state.isHeld && decide ((m.ticked c).suppressed = false)) := by
  by_cases off : m.state = .off
  · simp [Monitor.frees, off, MonitorState.isHeld]
  · rw [Monitor.ticked_eq c m off, Monitor.frees]
    cases k : m.clears c with
    | true =>
      have flag : m.suppressed = true := (Bool.and_eq_true_iff.1 k).1
      simp [flag]
    | false => cases m.suppressed <;> simp

/-! ### The ports of a tick -/

/-- The tick takes port `p` back into service. -/
def State.frees (s : State) (p : Port) : Bool := s.monitors[p].frees s.start.settings

/-- The part of a decay tick at the ports `ps`: what each monitor becomes, the due flag raised, the own entries that come into service,
and what is handed on. -/
structure State.DecaysAt (ps : List Port) (s t : State) : Prop where
  monitors : ∀ q : Port, t.monitors[q] = if q ∈ ps then s.monitors[q].ticked s.start.settings else s.monitors[q]
  same : State.SameButEntries { s with
    monitors := t.monitors
    sender := { s.sender with returnDue := s.sender.returnDue || ps.any s.frees } } t
  handsOn : s.HandsOn [] t
  entries : ∀ v : Uplink, t.view.entries[v] =
    if cardOf v = s.start.cardId ∧ portOf v ∈ ps ∧ s.frees (portOf v) = true then
      s.view.entries[v].applyStanding s.clock.now s.start.settings.admissionDelay (t.standing v)
    else s.view.entries[v]

theorem State.DecaysAt.nil (s : State) : s.DecaysAt [] s where
  monitors := fun q => by simp
  same := by simpa using State.SameButEntries.refl s
  handsOn := .refl s
  entries := fun v => by simp

/-- One port of a tick. -/
theorem State.decayPort_decaysAt (p : Port) (s : State) : s.DecaysAt [p] (s.decayPort p) := by
  have monitors : ∀ q : Port, (s.decayPort p).monitors[q] =
      if q ∈ [p] then s.monitors[q].ticked s.start.settings else s.monitors[q] :=
    State.foldl_decayPort_monitors [p] (List.nodup_singleton p) s
  have all := s.decayPort_monitors p
  have eq := s.decayPort_eq p
  obtain ⟨t, ht⟩ : ∃ t, t = s.setMonitor p (s.monitors[p].ticked s.start.settings) := ⟨_, rfl⟩
  have status : t.reported p = if s.frees p = true then .up else s.reported p := by
    rw [ht, State.reported_setMonitor, Monitor.ticked_status]
    rfl
  have one : [p].any s.frees = s.frees p := by simp
  rw [← ht] at eq
  cases k : s.frees p with
  | false =>
    rw [k, if_neg (by simp)] at status
    rw [State.handStatus, if_pos status.symm] at eq
    refine ⟨monitors, ?_, ?_, fun v => ?_⟩
    · rw [all, one, k, Bool.or_false, eq, ht]
      exact State.SameButEntries.refl _
    · rw [eq, ht]
      exact (State.HandsOn.refl s).congr_last rfl rfl rfl rfl rfl rfl
    · have no : ¬ (cardOf v = s.start.cardId ∧ portOf v ∈ [p] ∧ s.frees (portOf v) = true) := fun ⟨_, hp, hf⟩ => by
        rw [List.mem_singleton.1 hp, k] at hf
        cases hf
      rw [if_neg no, eq, ht]
      rfl
  | true =>
    have held : s.reported p = .held := (MonitorState.isHeld_iff _).1 (Bool.and_eq_true_iff.1 k).2
    rw [k, if_pos rfl] at status
    obtain ⟨same, handsOn, entries⟩ := State.handStatus_effect p (s.reported p) .return t (by rw [status, held]; rfl)
    rw [← eq] at same handsOn entries
    obtain ⟨others, moved⟩ := entries_of_setAt entries
    have standing : ∀ v, (s.decayPort p).standing v = t.standing v := fun v =>
      State.SameButEntries.standing (s := t.raiseDue .return) same v
    subst ht
    refine ⟨monitors, ?_, handsOn.congr_first rfl rfl rfl rfl, fun v => ?_⟩
    · rw [all, one, k, Bool.or_true]
      exact same
    · rw [standing v]
      by_cases hv : v = uplinkOf s.start.cardId p
      · subst hv
        rw [if_pos ⟨cardOf_uplinkOf _ _, by rw [portOf_uplinkOf]; exact List.mem_singleton_self p,
          by rw [portOf_uplinkOf]; exact k⟩]
        exact moved
      · rw [if_neg fun ⟨hc, hp, _⟩ => hv ((uplinkOf_eq_iff _ _ _).2 ⟨hc, List.mem_singleton.1 hp⟩)]
        exact others v hv

/-- The frame of an event with the monitors and the sending side replaced on both sides. -/
theorem State.SameButEntries.withMonitorsAndSender {s t : State} (h : s.SameButEntries t) (m : Vector Monitor 8) (d : Sender) :
    State.SameButEntries { s with monitors := m, sender := d } { t with monitors := m, sender := d } :=
  ⟨h.pins, h.clock, h.start, rfl, h.cards, h.draining, h.isolated, h.bus, rfl, h.store, h.build, h.sweep, h.job,
    h.completed, h.discarded, h.lookup, h.port, h.freeUse, h.pending⟩

/-- A standing reads the card records, the draining flag and the one port's status. -/
theorem State.standing_congr {s t : State} (u : Uplink) (cards : t.view.cards = s.view.cards)
    (draining : t.view.draining = s.view.draining) (reported : t.reported (portOf u) = s.reported (portOf u)) :
    t.standing u = s.standing u := by
  simp only [State.standing, cards, draining, reported]

theorem uplink_lt_of_port_lt {u v : Uplink} (card : cardOf u = cardOf v) (port : portOf u < portOf v) : u < v := by
  simp only [Fin.ext_iff, Fin.lt_def, cardOf, portOf] at *
  omega

/-- The ports act one after another in ascending number, each on its own entry alone. -/
theorem State.DecaysAt.cons {p : Port} {ps : List Port} {s r t : State} (a : s.DecaysAt [p] r) (b : r.DecaysAt ps t)
    (below : ∀ q ∈ ps, p < q) : s.DecaysAt (p :: ps) t := by
  have start : r.start = s.start := a.same.start
  have clock : r.clock = s.clock := a.same.clock
  have fresh : ∀ q ∈ ps, q ∉ [p] := fun q hq h => absurd (below q hq) (by rw [List.mem_singleton.1 h]; exact lt_irrefl p)
  have one : ∀ q, q ∉ ps → (q ∈ p :: ps ↔ q ∈ [p]) := fun q hq => by simp [hq]
  have kept : ∀ q ∈ ps, r.monitors[q] = s.monitors[q] := fun q hq => (a.monitors q).trans (if_neg (fresh q hq))
  have frees : ∀ q ∈ ps, r.frees q = s.frees q := fun q hq => by
    rw [State.frees, kept q hq, start]
    rfl
  refine ⟨fun q => ?_, ?_, ?_, fun v => ?_⟩
  · rw [b.monitors q]
    by_cases hq : q ∈ ps
    · rw [if_pos hq, if_pos (List.mem_cons_of_mem p hq), kept q hq, start]
    · rw [if_neg hq, a.monitors q]
      simp only [one q hq]
  · have sender : { r.sender with returnDue := r.sender.returnDue || ps.any r.frees } =
        { s.sender with returnDue := s.sender.returnDue || (p :: ps).any s.frees } := by
      have rest : ps.any r.frees = ps.any s.frees := by
        rw [Bool.eq_iff_iff, List.any_eq_true, List.any_eq_true]
        exact exists_congr fun q => and_congr_right fun hq => by rw [frees q hq]
      rw [a.same.sender, rest]
      simp [Bool.or_assoc]
    have lifted := a.same.withMonitorsAndSender t.monitors
      { r.sender with returnDue := r.sender.returnDue || ps.any r.frees }
    rw [sender] at lifted
    exact lifted.trans (sender ▸ b.same)
  · refine a.handsOn.trans b.handsOn (fun u v hu hv => ?_) a.same.job a.same.build a.same.sweep
      (congrArg Clock.timeBase b.same.clock) (congrArg Clock.now b.same.clock)
    have cu : cardOf u = s.start.cardId ∧ portOf u ∈ [p] := by
      by_contra k
      exact hu (congrArg Entry.state ((a.entries u).trans (if_neg fun h => k ⟨h.1, h.2.1⟩))).symm
    have cv : cardOf v = r.start.cardId ∧ portOf v ∈ ps := by
      by_contra k
      exact hv (congrArg Entry.state ((b.entries v).trans (if_neg fun h => k ⟨h.1, h.2.1⟩))).symm
    refine uplink_lt_of_port_lt (by rw [cu.1, cv.1, start]) ?_
    rw [List.mem_singleton.1 cu.2]
    exact below _ cv.2
  · rw [b.entries v, start, clock, a.entries v]
    by_cases hv : portOf v ∈ ps
    · have no := fresh _ hv
      simp only [hv, no, frees _ hv, List.mem_cons_of_mem p hv, true_and, false_and, and_false, if_false]
    · have standing : t.standing v = r.standing v :=
        State.standing_congr v b.same.cards b.same.draining
          (congrArg (fun m : Monitor => m.state.status) ((b.monitors (portOf v)).trans (if_neg hv)))
      simp only [hv, one _ hv, standing, false_and, and_false, if_false]

theorem State.foldl_decayPort_decaysAt (ps : List Port) (asc : ps.Pairwise (· < ·)) (s : State) :
    s.DecaysAt ps (ps.foldl State.decayPort s) := by
  induction ps generalizing s with
  | nil => exact .nil s
  | cons p ps ih =>
    obtain ⟨below, asc'⟩ := List.pairwise_cons.1 asc
    exact (s.decayPort_decaysAt p).cons (ih asc' _) below

/-- Settles O9: the eight ports act in ascending order, each as `Monitor.ticked_eq` says, and hand on as one event. -/
theorem decayTickLowersEveryWatchedPort : Obligations.DecayTickLowersEveryWatchedPort := by
  refine ⟨⟨rfl, fun _ => rfl, fun m hm => ?_⟩, fun time s tick => ?_⟩
  · rcases m with _ | _ | ⟨o, t⟩ | _ | _ | _
    case fading =>
      cases o with
      | up => rfl
      | held => cases hm
    case held => cases hm
    all_goals rfl
  · obtain ⟨u, hu⟩ : ∃ u, u = (s.advanceTo time).withClock
      { (s.advanceTo time).clock with nextTick := some (time + ms s.start.settings.decayTick) } := ⟨_, rfl⟩
    have run : exec .decayTick s = .next ((List.finRange 8).foldl State.decayPort u) := by
      simp only [exec, execDecayTick, tick, hu]
      rfl
    have d := State.foldl_decayPort_decaysAt (List.finRange 8) (finRange_ascending 8) u
    generalize (List.finRange 8).foldl State.decayPort u = t at run d
    obtain ⟨monitors, same, handsOn, entries⟩ := d
    subst hu
    simp only [List.mem_finRange, if_true, true_and] at monitors entries
    have frees : ∀ p : Port, s.frees p =
        (s.monitors[p].suppressed && s.monitors[p].state.isHeld && decide (t.monitors[p].suppressed = false)) := fun p => by
      rw [monitors p]
      exact Monitor.frees_eq _ _
    refine ⟨t, run, ?_, handsOn.congr_first rfl rfl rfl rfl, fun p off => ?_, fun p on => ?_, fun v => ?_⟩
    · rw [← funext frees]
      exact same
    · rw [monitors p]
      exact if_pos off
    · rw [monitors p]
      dsimp only
      rw [← decrement_eq]
      exact Monitor.ticked_eq _ _ on
    · have changed : t.reported (portOf v) ≠ s.reported (portOf v) ↔ s.frees (portOf v) = true := by
        rw [State.reported, monitors (portOf v)]
        exact Monitor.ticked_status_ne_iff _ _
      simp only [changed, ← State.advanceTo_now]
      exact entries v

end Sys2Proof.Machine
end

section
/-! The edges of the light lines (R4 to R9, R15): what a fall and a rise do, where the monitor acts and where the line alone changes. -/

namespace Sys2Proof.Machine

/-! ### What an edge does -/

/-- The level of a line set to what it is changes nothing. -/
theorem State.setLight_self (p : Port) (s : State) : s.setLight p s.pins.light[p] = s := by
  simp [State.setLight, State.withPins]

/-- A fall in LOADING, or at a port in OFF, changes the line alone (R1, R15). -/
theorem exec_lightFall_idle (p : Port) (s : State) (idle : s.isLoading = true ∨ s.monitors[p].state = .off) :
    exec (.lightFall p) s = .next (s.setLight p false) := by
  refine congrArg Host.Outcome.next ?_
  by_cases light : s.pins.light[p] = true
  · rw [if_pos light]
    change (if s.isLoading = true then _ else _) = _
    split
    · rfl
    · next h =>
      have off : s.monitors[p].state = .off := idle.resolve_left h
      have same : ({ s.monitors[p] with state := s.monitors[p].state.fall (s.clock.now + s.lossDebounce) } : Monitor) =
          s.monitors[p] := by
        rw [show s.monitors[p].state.fall _ = s.monitors[p].state by rw [off]; rfl]
      exact (congrArg ((s.setLight p false).setMonitor p) same).trans (State.setMonitor_self p _)
  · rw [if_neg light, ← Bool.eq_false_iff.2 light, State.setLight_self]

/-- A fall that a monitor takes (R5, R9). -/
theorem exec_lightFall (p : Port) (s : State) (running : s.isLoading = false) (light : s.pins.light[p] = true) :
    exec (.lightFall p) s = .next { s with
      pins := { s.pins with light := setAt s.pins.light p false }
      monitors := setAt s.monitors p { s.monitors[p] with
        state := s.monitors[p].state.fall (s.clock.now + 10 * s.start.settings.lossDebounce) } } := by
  refine congrArg Host.Outcome.next ?_
  rw [if_pos light]
  change (if s.isLoading = true then _ else _) = _
  rw [if_neg (by simp [running])]
  rfl

/-- A rise in LOADING, or at a port in OFF, changes the line alone (R1, R15). -/
theorem exec_lightRise_idle (p : Port) (s : State) (idle : s.isLoading = true ∨ s.monitors[p].state = .off) :
    exec (.lightRise p) s = .next (s.setLight p true) := by
  refine congrArg Host.Outcome.next ?_
  by_cases light : s.pins.light[p] = true
  · rw [if_pos light, ← light, State.setLight_self]
  · rw [if_neg light]
    change (if s.isLoading = true then _ else _) = _
    split
    · rfl
    · next h =>
      have off : s.monitors[p].state = .off := idle.resolve_left h
      have same : s.monitors[p].rise (s.clock.now + s.returnDebounce) = s.monitors[p] := by
        simp only [Monitor.rise, off]
      exact (congrArg ((s.setLight p true).setMonitor p) same).trans (State.setMonitor_self p _)

/-- A rise that a monitor takes (R6, R8). -/
theorem exec_lightRise (p : Port) (s : State) (running : s.isLoading = false) (light : s.pins.light[p] = false) :
    exec (.lightRise p) s = .next { s with
      pins := { s.pins with light := setAt s.pins.light p true }
      monitors := setAt s.monitors p (s.monitors[p].rise (s.clock.now + 1000 * s.start.settings.returnDebounce)) } := by
  refine congrArg Host.Outcome.next ?_
  rw [if_neg (by simp [light])]
  change (if s.isLoading = true then _ else _) = _
  rw [if_neg (by simp [running])]
  rfl

/-! ### The statements -/

/-- Settles O3: by the fall of each state of the monitor. -/
theorem lightFallInServiceStartsTheLossDebounce : Obligations.LightFallInServiceStartsTheLossDebounce := by
  refine ⟨exec_lightFall_idle, fun p o s running light state => ?_⟩
  rw [exec_lightFall p s running light, state]
  cases o <;> exact ⟨_, rfl, rfl, by simp [State.reported, MonitorState.fall, MonitorState.status]⟩

/-- Settles O4: by the rise of a monitor in DARK. -/
theorem lightRiseInDarkStartsTheReturnDebounce : Obligations.LightRiseInDarkStartsTheReturnDebounce := by
  refine ⟨exec_lightRise_idle, fun p s running light state => ?_⟩
  have rise : ∀ out, s.monitors[p].rise out = { s.monitors[p] with state := .returning out } := fun out => by
    simp only [Monitor.rise, state]
  rw [exec_lightRise p s running light, rise]
  exact ⟨_, rfl, rfl, congrArg MonitorState.status state, by simp [State.reported, MonitorState.status]⟩

/-- The state in service that an origin stands for. -/
def Origin.resumed : Origin → MonitorState
  | .up => .up
  | .held => .held

/-- A glitch gives the monitor back to its origin and is counted (R6). -/
theorem Monitor.rise_fading (m : Monitor) (o : Origin) (t out : Nat) (h : m.state = .fading o t) :
    m.rise out = { m with
      state := o.resumed
      glitches := if m.glitches = 65535#16 then 65535#16 else m.glitches + 1#16 } := by
  rw [← satInc_eq]
  cases o <;> simp only [Monitor.rise, h, Origin.resumed]

theorem Origin.resumed_status (o : Origin) (t : Nat) : o.resumed.status = (MonitorState.fading o t).status := by
  cases o <;> rfl

/-- A fall in service starts a fresh loss debounce (R5). -/
theorem Origin.fall_resumed (o : Origin) (out : Nat) : o.resumed.fall out = .fading o out := by
  cases o <;> rfl

/-- Settles O5: a glitch gives the monitor back to its origin and a flicker in RETURNING to DARK, and the edge after it is taken as any
other. -/
theorem flickersAreNotCharged : Obligations.FlickersAreNotCharged := by
  refine ⟨fun p o out s running light state => ?_, fun p out s running light state => ?_⟩
  · have before : s.reported p = o.resumed.status := (congrArg MonitorState.status state).trans (o.resumed_status out).symm
    rw [exec_lightRise p s running light, Monitor.rise_fading _ o out _ state]
    refine ⟨_, rfl, by cases o <;> rfl, ?_, _, exec_lightFall p _ ?_ ?_, ?_⟩
    · rw [before]
      simp [State.reported]
    · exact running
    · simp
    · simp [Origin.fall_resumed]
  · rw [exec_lightFall p s running light, state]
    refine ⟨_, rfl, rfl, congrArg MonitorState.status state, ?_, _, exec_lightRise p _ ?_ ?_, ?_⟩
    · simp [State.reported, MonitorState.status, MonitorState.fall]
    · exact running
    · simp
    · simp [Monitor.rise, MonitorState.fall]

end Sys2Proof.Machine
end

section
/-! READ_COUNTERS, the resets and the end of loading, block by block, and the laws at reset. -/

namespace Sys2Proof.Machine

/-! ### READ_COUNTERS (R153) -/

/-- A command that the port takes in a phase that allows it has its effect (R142, R143). -/
theorem State.takeCommand_taken (effect : State → State) (s : State) (takes : s.TakesCommand) :
    s.takeCommand true effect = effect s := by
  obtain ⟨resetN, warmN, transaction⟩ := takes
  unfold State.takeCommand
  rcases transaction with e | e <;> simp [resetN, warmN, e]

/-- Settles O48: the command is taken, and its response is made of the counters before they are cleared. -/
theorem readCountersClearsTheCounters : Obligations.ReadCountersClearsTheCounters := by
  intro s takes running counters
  refine ⟨rfl, congrArg Host.Outcome.next ?_⟩
  rw [running]
  exact State.takeCommand_taken _ s takes

/-! ### Resets -/

/-- The table port at a reset, field by field (R142, R145, R157). -/
theorem TablePort.atReset_eq (p : TablePort) : p.atReset =
    ⟨⟨Vector.replicate 8 none, 1, none, true⟩, if p.transaction = .released then .released else .ignored, false, []⟩ := by
  unfold TablePort.atReset
  cases p.transaction <;> rfl

/-- With a reset line asserted the load does not begin (R168). -/
theorem State.beginLoad_held (straps : CardId) (s : State) (held : s.pins.resetN = true ∨ s.pins.warmN = true) :
    s.beginLoad straps = s := by
  unfold State.beginLoad
  rw [if_pos (by simpa using held)]

/-- With neither asserted the straps are sampled and the read of the image begins (R168, R169). -/
theorem State.beginLoad_free (straps : CardId) (s : State) (free : ¬ (s.pins.resetN = true ∨ s.pins.warmN = true)) :
    s.beginLoad straps = { s with start := { s.start with
      cardId := straps
      phase := .loading (.reading (s.clock.now + 50000)) } } := by
  unfold State.beginLoad
  rw [if_neg (by simpa using free)]
  rfl

/-- Settles O52: both rows end in the cold reset's state, in which the lines, the phase and the card id alone differ. -/
theorem coldResetClearsThePart : Obligations.ColdResetClearsThePart := by
  intro straps s cleared
  have cold : ∀ (pins : Pins) (start : Start), start.kind = .cold →
      cleared { s.coldReset with pins := pins, start := start } := fun pins start kind =>
    ⟨rfl, kind, fun p => s.coldReset_monitor p, fun u => by simp [State.coldReset, View.reset],
      fun c => by simp [State.coldReset, View.reset], rfl, rfl, rfl, rfl, rfl,
      fun u => by simp [State.coldReset, Store.cold], rfl, rfl, rfl, s.port.atReset_eq, rfl, rfl, rfl, rfl, rfl, rfl, rfl⟩
  refine ⟨⟨_, rfl, ?_⟩, fun high => ⟨_, congrArg Host.Outcome.next (if_neg (by simp [high])), cold _ _ rfl, rfl, rfl⟩⟩
  by_cases held : s.pins.resetN = true ∨ s.pins.warmN = true
  · rw [if_pos held, State.beginLoad_held straps s.coldReset held]
    exact ⟨cold s.pins _ rfl, rfl, rfl⟩
  · rw [if_neg held, State.beginLoad_free straps s.coldReset held]
    exact ⟨cold s.pins _ rfl, rfl, rfl, rfl⟩

/-- The Repair Engine at a warm reset: the records in the pool, and the one a BUILD job has taken, count as discarded (R106, R125). -/
theorem State.warmReset_engine (s : State) : s.warmReset.engine =
    ⟨[], [], [], none, none, s.engine.completed, none, s.engine.discarded + s.store.pool.length +
      (match s.engine.job with | some (.build _ _ _) => 1 | _ => 0)⟩ := by
  have lost : s.lostToReset = s.store.pool.length + (match s.engine.job with | some (.build _ _ _) => 1 | _ => 0) := by
    unfold State.lostToReset
    rcases s.engine.job with _ | ⟨_ | _ | _ | _⟩ <;> rfl
  have sum := (congrArg (s.engine.discarded + ·) lost).trans (Nat.add_assoc _ _ _).symm
  exact congrArg (Engine.mk [] [] [] none none s.engine.completed none) sum

/-- Chip select asserted with no reset line asserted (R142). -/
theorem State.selectPort_free (s : State) (free : ¬ (s.pins.resetN = true ∨ s.pins.warmN = true)) :
    s.selectPort = { s with port := { s.port with transaction := .selected } } := by
  unfold State.selectPort
  rw [if_neg (by simpa using free)]
  rfl

/-- The end of a transaction in which no warm reset was ordered (R142). -/
theorem State.releasePort_unordered (s : State) (h : s.port.warmOrdered = false) :
    s.releasePort = { s with port := { s.port with transaction := .released, response := [] } } := by
  simp only [State.releasePort, State.withPort, ← h]

/-- The release of chip select with no warm reset ordered ends the transaction, and may begin the next (R142). -/
theorem exec_chipSelectRelease_unordered (straps : CardId) (again : Bool) (s : State) (h : s.port.warmOrdered = false) :
    exec (.chipSelectRelease ⟨straps, again⟩) s = .next { s with port := { s.port with
      transaction := if again = true then (if s.pins.resetN || s.pins.warmN then .ignored else .selected) else .released
      response := [] } } := by
  simp only [exec, execChipSelectRelease, h, Bool.false_eq_true, if_false, State.releasePort_unordered s h]
  cases again <;> rfl

/-- The release of chip select after WARM_RESET: a warm reset with its straps sampled and its load begun (R157, R168, R169). -/
theorem exec_chipSelectRelease_ordered (straps : CardId) (again : Bool) (s : State) (h : s.port.warmOrdered = true)
    (free : ¬ (s.pins.resetN = true ∨ s.pins.warmN = true)) :
    exec (.chipSelectRelease ⟨straps, again⟩) s = .next { s.releasePort.warmReset with
      start := { s.releasePort.warmReset.start with
        cardId := straps
        phase := .loading (.reading (s.clock.now + 50000)) }
      port := { s.releasePort.warmReset.port with transaction := if again = true then .selected else .released } } := by
  have load := State.beginLoad_free straps s.releasePort.warmReset free
  simp only [exec, execChipSelectRelease, h, if_true, load]
  cases again with
  | true => exact congrArg Host.Outcome.next (State.selectPort_free _ free)
  | false => rfl

/-- WARM_N asserted: the level of its line, and a warm reset unless RESET_N is asserted or the line was (R168). -/
theorem exec_warmNAsserted (s : State) : exec .warmNAsserted s = .next
    (if s.pins.warmN = false ∧ s.pins.resetN = false then (s.withPins { s.pins with warmN := true }).warmReset
    else s.withPins { s.pins with warmN := true }) := by
  refine congrArg Host.Outcome.next ?_
  cases warmN : s.pins.warmN with
  | true =>
    have same : ({ s.pins with warmN := true } : Pins) = s.pins := by rw [← warmN]
    rw [same]
    simp [State.withPins]
  | false =>
    change (if s.pins.resetN = true then _ else _) = _
    cases s.pins.resetN <;> rfl

/-- Settles O53: both rows end in the warm reset's state, in which the lines, the start and the port alone differ. -/
theorem warmResetKeepsWhatItKeeps : Obligations.WarmResetKeepsWhatItKeeps := by
  refine ⟨fun s low => ?_, fun straps again s held unordered => ?_, ?_⟩
  · rw [exec_warmNAsserted, if_neg (by simp [low])]
    rfl
  · have ignored : (s.pins.resetN || s.pins.warmN) = true := by simpa using held
    rw [exec_chipSelectRelease_unordered straps again s unordered, ignored]
    rfl
  · intro straps again s resetN warmN kept
    have free : ¬ (s.pins.resetN = true ∨ s.pins.warmN = true) := by simp [resetN, warmN]
    have warm : ∀ (pins : Pins) (start : Start) (port : TablePort),
        start.kind = (if s.isLoading = true then s.start.kind else .warm) →
        kept { s.warmReset with pins := pins, start := start, port := port } := fun pins start port kind =>
      ⟨rfl, kind, fun p => s.warmReset_monitor p, fun u => by simp [State.warmReset, View.reset],
        fun c => by simp [State.warmReset, View.reset], rfl, rfl, rfl, rfl, rfl,
        s.warmReset_engine, rfl, rfl, rfl, rfl⟩
    refine ⟨?_, fun takes running => ?_, fun unordered => ?_, fun ordered => ?_⟩
    · rw [exec_warmNAsserted, if_pos ⟨warmN, resetN⟩]
      exact ⟨_, rfl, warm _ _ _ rfl, rfl, rfl, s.port.atReset_eq⟩
    · refine congrArg Host.Outcome.next ?_
      rw [running]
      exact State.takeCommand_taken _ s takes
    · rw [exec_chipSelectRelease_unordered straps again s unordered, resetN, warmN]
      rfl
    · rw [exec_chipSelectRelease_ordered straps again s ordered free]
      exact ⟨_, rfl, warm s.pins _ _ rfl, rfl, rfl, rfl, rfl⟩

/-! ### The end of loading (R171) -/

/-- What the end of loading makes of the read: one that is not complete in time is no ROM answering (R169). -/
theorem exec_endOfLoading (rom : RomRead) (s : State)
    (loading : s.start.phase = .loading .timedOut ∨ ∃ limit, s.start.phase = .loading (.reading limit)) :
    let judged := judgeRead (match s.start.phase with
      | .loading (.reading limit) => if s.clock.now ≤ limit then rom else .noAck
      | _ => .noAck)
    exec (.endOfLoading rom) s = .next (s.finishLoading judged.1 judged.2) := by
  rcases loading with e | ⟨limit, e⟩
  · simp only [exec, execEndOfLoading, e]
  · have late : (if limit < s.clock.now then RomRead.noAck else rom) = if s.clock.now ≤ limit then rom else .noAck := by
      by_cases inTime : s.clock.now ≤ limit
      · rw [if_pos inTime, if_neg (Nat.not_lt.2 inTime)]
      · rw [if_neg inTime, if_pos (Nat.lt_of_not_le inTime)]
    simp only [exec, execEndOfLoading, e, late]

/-- A monitor takes up its line (R15). -/
theorem Monitor.takeUp_eq (watched light : Bool) (out : Nat) (m : Monitor) : m.takeUp watched light out =
    { m with state := if watched = false then .off else if light = true then .returning out else .dark } := by
  cases watched <;> rfl

/-- The starting status of a watched port is LOST (R15, R47). -/
theorem Monitor.takeUp_reason (watched light : Bool) (out : Nat) (m : Monitor) :
    (m.takeUp watched light out).state.status.reason = if watched = false then .unwatched else .lost := by
  cases watched <;> cases light <;> rfl

/-- An entry at the end of loading: the own ones take the monitors' starting statuses (R47). -/
theorem State.finishLoading_entry (c : Settings) (noted : Option JournalBody) (s : State) (u : Uplink) :
    (s.finishLoading c noted).view.entries[u] =
      if cardOf u = s.start.cardId then { s.view.entries[u] with
        state := .dark (if c.watch.getLsbD (portOf u).val = false then .unwatched else .lost) }
      else s.view.entries[u] := by
  have starting : (s.takenUp c)[portOf u].state.status.reason =
      if c.watch.getLsbD (portOf u).val = false then .unwatched else .lost := by
    rw [State.takenUp_get, Monitor.takeUp_reason]
  rw [State.finishLoading_eq, ← starting]
  exact Vector.getElem_ofFn u.isLt

/-- A card record at the end of loading: the strapped card becomes SELF (R47). -/
theorem State.finishLoading_card (c : Settings) (noted : Option JournalBody) (s : State) (k : CardId) :
    (s.finishLoading c noted).view.cards[k] =
      if k = s.start.cardId then { s.view.cards[k] with presence := .self } else s.view.cards[k] := by
  simp only [State.finishLoading_eq, setAt_get]
  by_cases e : s.start.cardId = k
  · subst e; simp
  · rw [if_neg e, if_neg (Ne.symm e)]

/-- Settles O55: block by block as `State.finishLoading_eq` gives it. -/
theorem endOfLoadingTakesUpTheStart : Obligations.EndOfLoadingTakesUpTheStart := by
  intro rom s loading judged j
  have run : exec (.endOfLoading rom) s = .next (s.finishLoading judged.1 judged.2) := exec_endOfLoading rom s loading
  clear_value judged
  have monitor := s.finishLoading_monitor judged.1 judged.2
  have entry := s.finishLoading_entry judged.1 judged.2
  have card := s.finishLoading_card judged.1 judged.2
  rw [State.finishLoading_eq] at run monitor entry card
  exact ⟨_, run, rfl, rfl, fun p => (monitor p).trans (Monitor.takeUp_eq _ _ _ _), card,
    fun u other => (entry u).trans (if_neg other), fun u own => (entry u).trans (if_pos own),
    rfl, rfl, rfl, rfl, rfl, rfl, rfl, rfl, rfl, rfl, rfl, rfl⟩

/-! ### The laws at reset -/

theorem reset_entry (u : Uplink) : State.reset.view.entries[u] = ⟨.dark .unheard, true⟩ := by simp [State.reset, View.reset]

theorem reset_card (c : CardId) : State.reset.view.cards[c] = ⟨.unheard, none, false⟩ := by simp [State.reset, View.reset]

theorem reset_memberList (u : Uplink) : State.reset.store.memberLists[u] = [] := by simp [State.reset, Store.cold]

theorem reset_resetLaw : State.reset.ResetLaw := by rintro (h | h) <;> cases h

theorem reset_dampingLaw : State.reset.DampingLaw := fun p => by
  have e : State.reset.monitors[p] = Monitor.cold := by simp [State.reset]
  rw [e]
  exact .of_notHeld (Nat.zero_le _) rfl

theorem reset_viewLaw : State.reset.ViewLaw where
  own := fun c => by
    rw [reset_card]
    exact ⟨fun h => (by cases h), fun ⟨_, h⟩ => (by cases h)⟩
  loading := fun _ => ⟨rfl, rfl, rfl⟩
  agree := fun u => by
    have standing : State.reset.standing u = .dark .unheard := by
      simp only [State.standing, reset_card]
    rw [reset_entry, standing]
    rfl

theorem reset_markLaw : State.reset.MarkLaw := fun u => .inl ⟨.unheard, by rw [reset_entry]⟩

theorem reset_busLaw : State.reset.BusLaw where
  loading := fun _ => rfl
  framerOff := ⟨fun _ => rfl, fun _ => rfl⟩
  sending := fun h => by cases h
  run := by decide
  clashed := fun h => by cases h
  marked := fun h => by cases h
  isolated := ⟨fun h => (by cases h), fun h => (by cases h)⟩
  suspended := fun c h => by rw [reset_card] at h; cases h
  running := fun h => by cases h
  inFrame := fun _ _ h => by cases h
  inOwn := fun _ _ _ h => by cases h

theorem reset_senderLaw : State.reset.SenderLaw where
  drainRejoin := fun ⟨h, _⟩ => by cases h
  withdraw := fun h => by cases h
  history := Nat.zero_le _
  quiet := fun _ => rfl

theorem reset_groupLaw : State.reset.GroupLaw where
  pool := fun _ h => by cases h
  job := fun _ h => by cases h
  ascending := .nil
  record := fun _ h => by cases h
  spread := fun _ h => by cases h

theorem reset_listLaw : State.reset.store.ListLaw where
  ascending := fun u => by rw [reset_memberList]; exact .nil
  named := fun u g => by
    rw [reset_memberList]
    exact ⟨fun h => (by cases h), fun h => (by cases h)⟩

theorem reset_workLaw : State.reset.WorkLaw where
  uplinks := .nil
  builds := .nil
  pooled := .nil
  same := fun g => ⟨fun h => (by cases h), fun h => (by cases h)⟩
  places := Nat.zero_le _

theorem reset_episodeLaw : State.reset.EpisodeLaw where
  closed := fun _ => rfl
  settle := fun _ h => by cases h
  counts := fun _ h => by cases h
  set := fun _ h => by cases h
  flag := rfl

theorem reset_lookupLaw : State.reset.LookupLaw where
  queue := Nat.zero_le _
  uplinks := .nil
  groups := .nil
  quiet := fun _ => rfl

theorem reset_journalLaw : State.reset.journal.Law where
  size := Nat.zero_le _
  heldBack := by decide
  closed := fun _ => rfl

theorem reset_settingsLaw : State.reset.SettingsLaw := by constructor <;> decide

/-- Settles O60, law by law: in LOADING every block is at its reset values, and a law has nothing left to ask or asks it of a
constant. -/
theorem resetMeetsEveryLaw : Obligations.ResetMeetsEveryLaw :=
  ⟨reset_resetLaw, reset_dampingLaw, reset_viewLaw, reset_markLaw, reset_busLaw, reset_senderLaw, reset_groupLaw, reset_listLaw,
    reset_workLaw, reset_episodeLaw, reset_lookupLaw, reset_journalLaw, reset_settingsLaw⟩

end Sys2Proof.Machine
end

section
/-! The operations of the model that leave the Start-up Loader and the levels of the two reset lines as they are, one lemma each. -/

namespace Sys2Proof.Machine

/-- What the settings law and the reset law read of a state: the Start-up Loader and the levels of the reset lines. -/
def State.loader (s : State) : Start × Bool × Bool := (s.start, s.pins.resetN, s.pins.warmN)

/-- An event of the view leaves the loader as it is. -/
theorem State.SameButEntries.loader {s t : State} (h : s.SameButEntries t) : t.loader = s.loader := by
  simp only [State.loader, h.start, h.pins]

namespace State

variable (s : State)

/-! ### The blocks other than the loader -/

@[simp] theorem withClock_loader (x : Clock) : (s.withClock x).loader = s.loader := rfl
@[simp] theorem withMonitors_loader (x : Vector Monitor 8) : (s.withMonitors x).loader = s.loader := rfl
@[simp] theorem withView_loader (x : View) : (s.withView x).loader = s.loader := rfl
@[simp] theorem withBus_loader (x : Bus) : (s.withBus x).loader = s.loader := rfl
@[simp] theorem withSender_loader (x : Sender) : (s.withSender x).loader = s.loader := rfl
@[simp] theorem withStore_loader (x : Store) : (s.withStore x).loader = s.loader := rfl
@[simp] theorem withEngine_loader (x : Engine) : (s.withEngine x).loader = s.loader := rfl
@[simp] theorem withLookup_loader (x : Lookup) : (s.withLookup x).loader = s.loader := rfl
@[simp] theorem withPort_loader (x : TablePort) : (s.withPort x).loader = s.loader := rfl
@[simp] theorem withJournal_loader (x : Journal) : (s.withJournal x).loader = s.loader := rfl
@[simp] theorem withModel_loader (x : ModelOwn) : (s.withModel x).loader = s.loader := rfl
@[simp] theorem withPending_loader (x : List Instr) : (s.withPending x).loader = s.loader := rfl

/-! ### Shared operations -/

@[simp] theorem elapse_loader (d : Nat) : (s.elapse d).loader = s.loader := rfl
@[simp] theorem advanceTo_loader (t : Nat) : (s.advanceTo t).loader = s.loader := rfl
@[simp] theorem append_loader (b : JournalBody) : (s.append b).loader = s.loader := rfl
@[simp] theorem orderMade_loader : s.orderMade.loader = s.loader := rfl
@[simp] theorem setCard_loader (c : CardId) (r : CardRecord) : (s.setCard c r).loader = s.loader := rfl
@[simp] theorem raiseDue_loader (f : FrameClass) : (s.raiseDue f).loader = s.loader := rfl

@[simp] theorem entryMade_loader : s.entryMade.loader = s.loader := s.entryMade_same.loader

@[simp] theorem moveEntry_loader (u : Uplink) (e : Entry) : (s.moveEntry u e).loader = s.loader := (s.moveEntry_same u e).loader

@[simp] theorem refindAll_loader (us : List Uplink) : (s.refindAll us).loader = s.loader := (s.refindAll_same us).loader

@[simp] theorem startSettling_loader : s.startSettling.loader = s.loader := by
  unfold startSettling; split <;> rfl

@[simp] theorem completeJob_loader : s.completeJob.loader = s.loader := startSettling_loader _

/-! ### The Light Monitors -/

@[simp] theorem setLight_loader (p : Port) (level : Bool) : (s.setLight p level).loader = s.loader := rfl
@[simp] theorem setMonitor_loader (p : Port) (m : Monitor) : (s.setMonitor p m).loader = s.loader := rfl

@[simp] theorem handStatus_loader (p : Port) (old : PortStatus) : (s.handStatus p old).loader = s.loader := by
  unfold handStatus
  split
  · rfl
  · split <;> exact (refind_same _ _).loader

@[simp] theorem decayPort_loader (p : Port) : (s.decayPort p).loader = s.loader := by simp [decayPort_eq]

theorem foldl_decayPort_loader (ps : List Port) : (ps.foldl decayPort s).loader = s.loader := by
  induction ps generalizing s with
  | nil => rfl
  | cons p ps ih => rw [List.foldl_cons, ih, decayPort_loader]

/-! ### The Uplink View's events -/

@[simp] theorem loseCard_loader (c : CardId) : (s.loseCard c).loader = s.loader := refindAll_loader _ _

@[simp] theorem appendIf_loader (b : Option JournalBody) : (s.appendIf b).loader = s.loader := by
  cases b <;> rfl

@[simp] theorem applyFrame_loader (c : CardId) (cls : FrameClass) (st : Statuses) : (s.applyFrame c cls st).loader = s.loader := by
  simp [applyFrame]

@[simp] theorem isolationStart_loader : s.isolationStart.loader = s.loader := by
  simp only [isolationStart]; split <;> simp

@[simp] theorem isolationEnd_loader : s.isolationEnd.loader = s.loader := rfl

@[simp] theorem setDraining_loader (b : Bool) : (s.setDraining b).loader = s.loader := refindAll_loader _ _

/-! ### The notice bus -/

@[simp] theorem setFramer_loader (f : Framer) : (s.setFramer f).loader = s.loader := rfl

@[simp] theorem framingError_loader (aborted : Bool) : (s.framingError aborted).loader = s.loader := by
  cases aborted <;> rfl

@[simp] theorem crcError_loader (aborted : Bool) : (s.crcError aborted).loader = s.loader := by
  cases aborted <;> rfl

@[simp] theorem dispose_loader (card : CardId) (cls : FrameClass) (st : Statuses) :
    (s.dispose card cls st).loader = s.loader := by
  simp only [dispose]
  split
  · split <;> rfl
  · simp

@[simp] theorem judge_loader (aborted : Bool) (bits : BitVec 48) : (s.judge aborted bits).loader = s.loader := by
  unfold judge
  split
  · simp
  · split <;> simp

@[simp] theorem hear_loader (aborted : Bool) (taken : List Bool) : (s.hear aborted taken).loader = s.loader := by
  rcases s.hear_cases aborted taken with ⟨-, e⟩ | ⟨-, -, e⟩ | ⟨-, -, e⟩ <;> simp [e]

@[simp] theorem startFrame_loader : s.startFrame.loader = s.loader := rfl

@[simp] theorem loseArbitration_loader (cls : FrameClass) (taken : List Bool) :
    (s.loseArbitration cls taken).loader = s.loader := rfl

@[simp] theorem countAbort_loader (cls : FrameClass) : (s.countAbort cls).loader = s.loader := by
  simp only [countAbort]; split <;> rfl

@[simp] theorem abortFrame_loader (cls : FrameClass) (taken : List Bool) : (s.abortFrame cls taken).loader = s.loader := by
  simp [abortFrame]

@[simp] theorem completeFrame_loader (cls : FrameClass) : (s.completeFrame cls).loader = s.loader := rfl

@[simp] theorem readBack_loader (cls : FrameClass) (st : Statuses) (sent : Nat) (b : Bool) :
    (s.readBack cls st sent b).loader = s.loader := by
  cases own : (lineBits cls s.start.cardId st)[sent]? with
  | none => simp [readBack, own]
  | some x =>
    rcases s.readBack_cases cls st sent x b own with ⟨-, -, e⟩ | ⟨-, -, e⟩ | ⟨-, -, e⟩ | ⟨-, -, e⟩ <;> simp [e]

@[simp] theorem startEdge_loader (idle : Nat) : (s.startEdge idle).loader = s.loader := by
  rcases s.startEdge_cases idle with ⟨-, e⟩ | ⟨-, -, e⟩ | ⟨-, -, e⟩ <;> simp [e]

@[simp] theorem takeBit_loader (b : Bool) : (s.takeBit b).loader = s.loader := by
  unfold takeBit
  split
  · rfl
  · split <;> simp
  · simp
  · simp

@[simp] theorem takeBits_loader (bits : List Bool) : (s.takeBits bits).loader = s.loader := by
  induction bits generalizing s with
  | nil => rfl
  | cons b bits ih => rw [takeBits_cons, ih, takeBit_loader]

@[simp] theorem discardReception_loader (receiving : Bool) : (s.discardReception receiving).loader = s.loader := by
  unfold discardReception
  split
  · simp
  · split <;> simp
  · rfl
  · rfl

@[simp] theorem enterFault_loader (receiving : Bool) : (s.enterFault receiving).loader = s.loader := by simp [enterFault]

/-! ### Groups and the Repair Engine -/

@[simp] theorem handOutcome_loader (g : GroupNo) (old new : Mode) (moved : Nat) :
    (s.handOutcome g old new moved).loader = s.loader := by
  simp only [handOutcome, withEngine_loader]
  split <;> split <;> rfl

@[simp] theorem reconcileGroup_loader (g : GroupNo) (snapshot : List Uplink) : (s.reconcileGroup g snapshot).loader = s.loader := by
  unfold reconcileGroup
  split <;> simp

@[simp] theorem installGroup_loader (g : GroupNo) (r : Record) (snapshot : List Uplink) :
    (s.installGroup g r snapshot).loader = s.loader := by simp [installGroup]

@[simp] theorem releaseGroup_loader (g : GroupNo) : (s.releaseGroup g).loader = s.loader := by simp [releaseGroup]

@[simp] theorem walkOn_loader (job : Job) (position : Option GroupNo) : (s.walkOn job position).loader = s.loader := by
  unfold walkOn
  split <;> simp

@[simp] theorem suspend_loader (job : Job) (position : GroupNo) : (s.suspend job position).loader = s.loader := by
  unfold suspend
  split
  · split <;> rfl
  all_goals rfl

@[simp] theorem boundary_loader (job : Job) (position : GroupNo) : (s.boundary job position).loader = s.loader := by
  unfold boundary
  split <;> simp

@[simp] theorem begin_loader (taken : Taken) : (s.begin taken).loader = s.loader := by
  cases taken with
  | build g => simp only [State.begin, beginBuild]; split <;> simp
  | urgent w => simp [State.begin]
  | sweep e => simp [State.begin]
  | calm w => simp [State.begin]

@[simp] theorem closeEpisode_loader (e : Episode) : (s.closeEpisode e).loader = s.loader := rfl

/-! ### The table port -/

@[simp] theorem respond_loader (c : StatusCode) (data : List Byte) : (s.respond c data).loader = s.loader := rfl
@[simp] theorem releasePort_loader : s.releasePort.loader = s.loader := rfl
@[simp] theorem selectPort_loader : s.selectPort.loader = s.loader := rfl

@[simp] theorem putPending_loader (g : GroupNo) (k : PendingKind) : (s.putPending g k).loader = s.loader := by
  unfold putPending
  split <;> simp

/-- A command that comes in on the port does to the loader what its effect does, or nothing. -/
theorem takeCommand_loader_of (inPhase : Bool) (effect : State → State) (h : (effect s).loader = s.loader) :
    (s.takeCommand inPhase effect).loader = s.loader := by
  rcases s.takeCommand_cases inPhase effect with ⟨-, -, e⟩ | ⟨-, -, e⟩ | ⟨-, e⟩ | ⟨-, e⟩
  · rw [e, h]
  · rw [e]; rfl
  · rw [e]; rfl
  · rw [e]

end State

end Sys2Proof.Machine
end

section
/-! The commands of the blocks other than the Start-up Loader leave the loader and the reset lines as they are (R168). -/

namespace Sys2Proof.Machine

variable {s t : State}

/-! ### The Light Monitors and the Uplink View -/

theorem execLightFall_loader (p : Port) (h : execLightFall p s = .next t) : t.loader = s.loader := by
  obtain rfl := Host.Outcome.next.inj h
  dsimp only
  split
  · split <;> simp
  · rfl

theorem execLightRise_loader (p : Port) (h : execLightRise p s = .next t) : t.loader = s.loader := by
  obtain rfl := Host.Outcome.next.inj h
  dsimp only
  split
  · rfl
  · split <;> simp

theorem execLossTimerExpiry_loader (p : Port) (h : execLossTimerExpiry p s = .next t) : t.loader = s.loader := by
  obtain rfl := Host.Outcome.next.inj h
  split <;> simp

theorem execReturnTimerExpiry_loader (p : Port) (h : execReturnTimerExpiry p s = .next t) : t.loader = s.loader := by
  obtain rfl := Host.Outcome.next.inj h
  split <;> simp

theorem execDecayTick_loader (h : execDecayTick s = .next t) : t.loader = s.loader := by
  obtain rfl := Host.Outcome.next.inj h
  split
  · rfl
  · exact State.foldl_decayPort_loader _ _

theorem execAdmissionDeadline_loader (u : Uplink) (h : execAdmissionDeadline u s = .next t) : t.loader = s.loader := by
  obtain rfl := Host.Outcome.next.inj h
  split <;> simp

theorem execPresenceDeadline_loader (c : CardId) (h : execPresenceDeadline c s = .next t) : t.loader = s.loader := by
  obtain rfl := Host.Outcome.next.inj h
  split <;> simp

/-! ### The notice bus -/

theorem execFrameReceived_loader (gap : Nat) (bits : List Bool) (h : execFrameReceived gap bits s = .next t) :
    t.loader = s.loader := by
  obtain rfl := Host.Outcome.next.inj h
  split
  · split <;> simp
  · rfl

theorem execFrameStart_loader (gap : Nat) (edge : Bool) (h : execFrameStart gap edge s = .next t) : t.loader = s.loader := by
  obtain rfl := Host.Outcome.next.inj h
  split
  · split
    · split
      · simp
      · split <;> simp
    all_goals rfl
  · rfl

theorem execArbitrationLost_loader (h : execArbitrationLost s = .next t) : t.loader = s.loader := by
  obtain rfl := Host.Outcome.next.inj h
  split
  · dsimp only
    split <;> simp
  all_goals rfl

theorem execAbort_loader (h : execAbort s = .next t) : t.loader = s.loader := by
  obtain rfl := Host.Outcome.next.inj h
  split
  · dsimp only
    split
    · simp
    · split <;> simp
  all_goals rfl

theorem execFrameComplete_loader (h : execFrameComplete s = .next t) : t.loader = s.loader := by
  obtain rfl := Host.Outcome.next.inj h
  split <;> simp

theorem execMuteTimerExpiry_loader (h : execMuteTimerExpiry s = .next t) : t.loader = s.loader := by
  obtain rfl := Host.Outcome.next.inj h
  split <;> simp

theorem execBeaconTimerExpiry_loader (h : execBeaconTimerExpiry s = .next t) : t.loader = s.loader := by
  obtain rfl := Host.Outcome.next.inj h
  split <;> simp

theorem execStuckLine_loader (stretch : Nat) (receiving : Bool) (h : execStuckLine stretch receiving s = .next t) :
    t.loader = s.loader := by
  obtain rfl := Host.Outcome.next.inj h
  split <;> simp

theorem execFaultRecovery_loader (recessive : Nat) (h : execFaultRecovery recessive s = .next t) : t.loader = s.loader := by
  obtain rfl := Host.Outcome.next.inj h
  split
  · split <;> simp
  all_goals rfl

/-! ### The Repair Engine and the Lookup Unit -/

theorem execArbiterTake_loader (h : execArbiterTake s = .next t) : t.loader = s.loader := by
  obtain rfl := Host.Outcome.next.inj h
  split
  · rfl
  · split <;> simp

theorem execReconcile_loader (time : SnapshotTime) (h : execReconcile time s = .next t) : t.loader = s.loader := by
  obtain rfl := Host.Outcome.next.inj h
  split
  · rfl
  · split <;> simp

theorem execInstallation_loader (h : execInstallation s = .next t) : t.loader = s.loader := by
  obtain rfl := Host.Outcome.next.inj h
  split <;> simp

theorem execSettleDeadline_loader (h : execSettleDeadline s = .next t) : t.loader = s.loader := by
  obtain rfl := Host.Outcome.next.inj h
  split
  · rfl
  · split
    · rfl
    · split <;> simp

theorem execLookupRequest_loader (word : BitVec 34) (h : execLookupRequest word s = .next t) : t.loader = s.loader := by
  obtain rfl := Host.Outcome.next.inj h
  split <;> rfl

theorem execAnswer_loader (h : execAnswer s = .next t) : t.loader = s.loader := by
  obtain rfl := Host.Outcome.next.inj h
  split <;> rfl

theorem execDropUplink_loader (h : execDropUplink s = .next t) : t.loader = s.loader := by
  obtain rfl := Host.Outcome.next.inj h
  split <;> rfl

theorem execDropGroup_loader (h : execDropGroup s = .next t) : t.loader = s.loader := by
  obtain rfl := Host.Outcome.next.inj h
  split <;> rfl

theorem execDropAll_loader (h : execDropAll s = .next t) : t.loader = s.loader := by
  obtain rfl := Host.Outcome.next.inj h
  split <;> rfl

/-! ### The table port -/

/-- A command that comes in on the port, where its effect leaves the loader as it is. -/
theorem takeCommand_next_loader {inPhase : Bool} {effect : State → State}
    (h : Host.Outcome.next (s.takeCommand inPhase effect) = (.next t : Host.Outcome State Fault Refusal))
    (e : (effect s).loader = s.loader) : t.loader = s.loader :=
  Host.Outcome.next.inj h ▸ State.takeCommand_loader_of s inPhase effect e

theorem execCommit_loader (b0 b1 : Byte) (h : execCommit b0 b1 s = .next t) : t.loader = s.loader := by
  refine takeCommand_next_loader h ?_
  split
  · rfl
  · split <;> simp

theorem execRelease_loader (b0 b1 : Byte) (h : execRelease b0 b1 s = .next t) : t.loader = s.loader := by
  refine takeCommand_next_loader h ?_
  split <;> simp

theorem execDrain_loader (h : execDrain s = .next t) : t.loader = s.loader := by
  refine takeCommand_next_loader h ?_
  split
  · rfl
  · split <;> simp

theorem execUndrain_loader (h : execUndrain s = .next t) : t.loader = s.loader := by
  refine takeCommand_next_loader h ?_
  dsimp only
  split <;> simp

theorem execUnknownCommand_loader (byte : Byte) (h : execUnknownCommand byte s = .next t) : t.loader = s.loader := by
  obtain rfl := Host.Outcome.next.inj h
  split
  · rfl
  · exact State.takeCommand_loader_of _ _ _ rfl

end Sys2Proof.Machine
end

section
/-! The settings law (R170) and the reset law (R168): the loader's commands keep them, and every other command leaves what they read. -/

namespace Sys2Proof.Machine

/-! ### The settings that the loader makes of a read (R169, R170) -/

theorem clamp_bounds (lo hi x : Nat) (h : lo ≤ hi) : lo ≤ clamp lo hi x ∧ clamp lo hi x ≤ hi := by
  unfold clamp
  omega

/-- A value brought within 10 and a higher bound, and then to its step of 10. -/
theorem stepDown_clamp (hi x : Nat) (h : 10 ≤ hi) : 10 ≤ stepDown 10 10 (clamp 10 hi x) ∧
    stepDown 10 10 (clamp 10 hi x) ≤ hi ∧ stepDown 10 10 (clamp 10 hi x) % 10 = 0 := by
  have bounds := clamp_bounds 10 hi x h
  unfold stepDown
  omega

/-- Step 2 of R170: a reuse threshold not below a positive suppress threshold is taken to the value next below it. -/
theorem below_threshold (reuse suppress : Nat) (h : 1 ≤ suppress) :
    (if reuse < suppress then reuse else suppress - 1) < suppress := by
  split <;> omega

theorem Settings.default_law : Settings.default.Law := reset_settingsLaw

/-- Adjusted settings keep their law, whatever was stored; the admission delay has no range but that of its two bytes. -/
theorem Settings.adjusted_law (c : Settings) (delay : c.admissionDelay ≤ 65535) : c.adjusted.Law where
  lossDebounce := clamp_bounds 1 64 _ (by decide)
  returnDebounce := clamp_bounds 1 64 _ (by decide)
  charge := (clamp_bounds 0 2047 _ (by decide)).2
  suppress := clamp_bounds 1 8191 _ (by decide)
  reuse := below_threshold _ _ (clamp_bounds 1 8191 _ (by decide)).1
  decayRate := clamp_bounds 1 512 _ (by decide)
  decayTick := stepDown_clamp 2550 _ (by decide)
  admissionDelay := delay
  beaconInterval := clamp_bounds 1 64 _ (by decide)
  presenceWindow := by
    have window := clamp_bounds 2 255 c.presenceWindow (by decide)
    have interval := clamp_bounds 1 64 c.beaconInterval (by decide)
    simp only [adjusted, related, ranged]
    omega
  txLimit := clamp_bounds 2 16 _ (by decide)
  txWindow := stepDown_clamp 1000 _ (by decide)
  settleTime := clamp_bounds 1 255 _ (by decide)

/-- Whatever the read brings, the settings in force keep their law. -/
theorem judgeRead_law (rom : RomRead) : (judgeRead rom).1.Law := by
  cases rom with
  | noAck => exact Settings.default_law
  | image bytes =>
    have used : (storedSettings bytes).adjusted.Law := Settings.adjusted_law _ (Nat.le_of_lt_succ (twoBytes bytes 16).isLt)
    dsimp only [judgeRead]
    split
    · exact Settings.default_law
    · split
      · exact Settings.default_law
      · split
        · exact Settings.default_law
        · exact used

/-! ### Keeping both laws -/

/-- From `s` to `t` the settings law and the reset law are kept. -/
def State.KeepsStart (s t : State) : Prop := (s.SettingsLaw → t.SettingsLaw) ∧ (s.ResetLaw → t.ResetLaw)

namespace State.KeepsStart

variable {s t r : State}

theorem refl (s : State) : s.KeepsStart s := ⟨id, id⟩

theorem trans (a : s.KeepsStart t) (b : t.KeepsStart r) : s.KeepsStart r := ⟨b.1 ∘ a.1, b.2 ∘ a.2⟩

/-- Both laws read the loader and the reset lines alone. -/
theorem of_loader (h : t.loader = s.loader) : s.KeepsStart t := by
  simp only [State.loader, Prod.mk.injEq] at h
  obtain ⟨start, resetN, warmN⟩ := h
  simp [State.KeepsStart, State.SettingsLaw, State.ResetLaw, start, resetN, warmN]

/-- A reset puts the defaults in force and makes the load wait (R168). -/
theorem of_reset (settings : t.start.settings = Settings.default) (phase : t.start.phase = .loading .waiting) :
    s.KeepsStart t :=
  ⟨fun _ => show t.start.settings.Law from settings ▸ Settings.default_law, fun _ _ => phase⟩

/-- Once the load has begun no reset line is asserted, and the reset law asks nothing until one is. -/
theorem of_begun (begun : s.start.phase ≠ .loading .waiting) (lines : t.loader.2 = s.loader.2)
    (settings : s.SettingsLaw → t.SettingsLaw) : s.KeepsStart t := by
  refine ⟨settings, fun law held => absurd (law ?_) begun⟩
  simp only [State.loader, Prod.mk.injEq] at lines
  rwa [lines.1, lines.2] at held

end State.KeepsStart

/-! ### The loader's commands -/

/-- The load begins only with neither reset line asserted (R168). -/
theorem State.beginLoad_keepsStart (straps : CardId) (s : State) : s.KeepsStart (s.beginLoad straps) := by
  by_cases held : s.pins.resetN = true ∨ s.pins.warmN = true
  · rw [State.beginLoad_held straps s held]
    exact .refl s
  · rw [State.beginLoad_free straps s held]
    exact ⟨id, fun _ now => absurd now held⟩

/-- Reset lines that move so that none is asserted where none was. -/
theorem State.withPins_keepsStart (x : Pins) (s : State)
    (h : x.resetN = true ∨ x.warmN = true → s.pins.resetN = true ∨ s.pins.warmN = true) : s.KeepsStart (s.withPins x) :=
  ⟨id, fun law held => law (h held)⟩

theorem execPowerUp_keepsStart (straps : CardId) (s t : State) (h : execPowerUp straps s = .next t) : s.KeepsStart t := by
  obtain rfl := Host.Outcome.next.inj h
  exact .trans (.of_reset rfl rfl) (State.beginLoad_keepsStart straps s.coldReset)

theorem execResetNAsserted_keepsStart (s t : State) (h : execResetNAsserted s = .next t) : s.KeepsStart t := by
  obtain rfl := Host.Outcome.next.inj h
  split
  · exact .refl s
  · exact .of_reset rfl rfl

theorem execResetNReleased_keepsStart (straps : CardId) (s t : State) (h : execResetNReleased straps s = .next t) :
    s.KeepsStart t := by
  obtain rfl := Host.Outcome.next.inj h
  split
  · next low => exact (State.withPins_keepsStart _ s fun _ => .inl low).trans (State.beginLoad_keepsStart _ _)
  · exact .refl s

theorem execWarmNAsserted_keepsStart (s t : State) (h : execWarmNAsserted s = .next t) : s.KeepsStart t := by
  obtain rfl := Host.Outcome.next.inj h
  dsimp only
  split
  · exact .refl s
  · split
    · next low => exact State.withPins_keepsStart _ s fun _ => .inl low
    · exact .of_reset rfl rfl

theorem execWarmNReleased_keepsStart (straps : CardId) (s t : State) (h : execWarmNReleased straps s = .next t) :
    s.KeepsStart t := by
  obtain rfl := Host.Outcome.next.inj h
  split
  · next low => exact (State.withPins_keepsStart _ s fun _ => .inr low).trans (State.beginLoad_keepsStart _ _)
  · exact .refl s

theorem execChipSelectRelease_keepsStart (r : Deselect) (s t : State) (h : execChipSelectRelease r s = .next t) :
    s.KeepsStart t := by
  obtain rfl := Host.Outcome.next.inj h
  have released : s.KeepsStart
      (if s.port.warmOrdered then s.releasePort.warmReset.beginLoad r.straps else s.releasePort) := by
    split
    · exact .trans (.of_reset rfl rfl) (State.beginLoad_keepsStart r.straps s.releasePort.warmReset)
    · exact .of_loader s.releasePort_loader
  dsimp only
  split
  · exact released.trans (.of_loader (State.selectPort_loader _))
  · exact released

theorem execLoadTimeout_keepsStart (s t : State) (h : execLoadTimeout s = .next t) : s.KeepsStart t := by
  obtain rfl := Host.Outcome.next.inj h
  split
  · next limit phase => exact .of_begun (by simp [phase]) rfl id
  all_goals exact .refl s

/-- The end of loading puts the settings it is given in force. -/
theorem State.finishLoading_keepsStart (c : Settings) (noted : Option JournalBody) (s : State) (law : c.Law)
    (begun : s.start.phase ≠ .loading .waiting) : s.KeepsStart (s.finishLoading c noted) := by
  rw [State.finishLoading_eq]
  exact .of_begun begun rfl fun _ => law

theorem execEndOfLoading_keepsStart (rom : RomRead) (s t : State) (h : execEndOfLoading rom s = .next t) :
    s.KeepsStart t := by
  obtain rfl := Host.Outcome.next.inj h
  split
  · next limit phase => exact State.finishLoading_keepsStart _ _ s (judgeRead_law _) (by simp [phase])
  · next phase => exact State.finishLoading_keepsStart _ _ s (judgeRead_law _) (by simp [phase])
  all_goals exact .refl s

/-- The entry to SERVE moves the phase alone (R173). -/
theorem State.enterServe_loader (s : State) :
    s.enterServe.loader = ({ s.start with phase := .serve }, s.pins.resetN, s.pins.warmN) := by
  have serving : s.startServing.loader = ({ s.start with phase := .serve }, s.pins.resetN, s.pins.warmN) := rfl
  simp only [State.enterServe, State.placeSweep]
  split
  · simp [serving]
  · split <;> simp [serving]

theorem execListenDeadline_keepsStart (s t : State) (h : execListenDeadline s = .next t) : s.KeepsStart t := by
  obtain rfl := Host.Outcome.next.inj h
  split
  · next deadline phase =>
    have loader := (s.advanceTo deadline).enterServe_loader
    refine .of_begun (by simp [phase]) (congrArg (·.2) loader) fun law => ?_
    have start : (s.advanceTo deadline).enterServe.start = { s.start with phase := .serve } := congrArg (·.1) loader
    simpa only [State.SettingsLaw, start] using law
  all_goals exact .refl s

/-! ### Every command -/

theorem exec_keepsStart (c : Instr) (s t : State) (h : exec c s = .next t) : s.KeepsStart t := by
  have kept : t.loader = s.loader → s.KeepsStart t := .of_loader
  cases c with
  | lightFall _ => exact kept (execLightFall_loader _ h)
  | lightRise _ => exact kept (execLightRise_loader _ h)
  | lossTimerExpiry _ => exact kept (execLossTimerExpiry_loader _ h)
  | returnTimerExpiry _ => exact kept (execReturnTimerExpiry_loader _ h)
  | decayTick => exact kept (execDecayTick_loader h)
  | admissionDeadline _ => exact kept (execAdmissionDeadline_loader _ h)
  | presenceDeadline _ => exact kept (execPresenceDeadline_loader _ h)
  | frameReceived _ _ => exact kept (execFrameReceived_loader _ _ h)
  | frameStart _ _ => exact kept (execFrameStart_loader _ _ h)
  | arbitrationLost => exact kept (execArbitrationLost_loader h)
  | abort => exact kept (execAbort_loader h)
  | frameComplete => exact kept (execFrameComplete_loader h)
  | muteTimerExpiry => exact kept (execMuteTimerExpiry_loader h)
  | beaconTimerExpiry => exact kept (execBeaconTimerExpiry_loader h)
  | stuckLine _ _ => exact kept (execStuckLine_loader _ _ h)
  | faultRecovery _ => exact kept (execFaultRecovery_loader _ h)
  | arbiterTake => exact kept (execArbiterTake_loader h)
  | reconcile _ => exact kept (execReconcile_loader _ h)
  | installation => exact kept (execInstallation_loader h)
  | settleDeadline => exact kept (execSettleDeadline_loader h)
  | lookupRequest _ => exact kept (execLookupRequest_loader _ h)
  | answer => exact kept (execAnswer_loader h)
  | dropUplink => exact kept (execDropUplink_loader h)
  | dropGroup => exact kept (execDropGroup_loader h)
  | dropAll => exact kept (execDropAll_loader h)
  | status => exact kept (takeCommand_next_loader h rfl)
  | stageClear => exact kept (takeCommand_next_loader h rfl)
  | stageMember _ _ => exact kept (takeCommand_next_loader h rfl)
  | stageOptions _ _ => exact kept (takeCommand_next_loader h rfl)
  | commit _ _ => exact kept (execCommit_loader _ _ h)
  | release _ _ => exact kept (execRelease_loader _ _ h)
  | readGroup _ _ => exact kept (takeCommand_next_loader h rfl)
  | readSpread _ _ => exact kept (takeCommand_next_loader h rfl)
  | readView _ => exact kept (takeCommand_next_loader h rfl)
  | readCards => exact kept (takeCommand_next_loader h rfl)
  | readJournal _ => exact kept (takeCommand_next_loader h rfl)
  | readCounters => exact kept (takeCommand_next_loader h rfl)
  | drain => exact kept (execDrain_loader h)
  | undrain => exact kept (execUndrain_loader h)
  | warmReset => exact kept (takeCommand_next_loader h rfl)
  | unknownCommand _ => exact kept (execUnknownCommand_loader _ h)
  | chipSelectRelease r => exact execChipSelectRelease_keepsStart r s t h
  | powerUp straps => exact execPowerUp_keepsStart straps s t h
  | resetNAsserted => exact execResetNAsserted_keepsStart s t h
  | resetNReleased straps => exact execResetNReleased_keepsStart straps s t h
  | warmNAsserted => exact execWarmNAsserted_keepsStart s t h
  | warmNReleased straps => exact execWarmNReleased_keepsStart straps s t h
  | loadTimeout => exact execLoadTimeout_keepsStart s t h
  | endOfLoading rom => exact execEndOfLoading_keepsStart rom s t h
  | listenDeadline => exact execListenDeadline_keepsStart s t h

/-- Settles O58: the loader's commands keep both laws, and every other command, and 1 µs with none waiting, leaves what they read. -/
theorem settingsAndResetLawsAreKept : Obligations.SettingsAndResetLawsAreKept := by
  intro s t h
  unfold step at h
  split at h
  · obtain rfl := Host.Outcome.next.inj h
    exact State.KeepsStart.of_loader (s.elapse_loader 1)
  · next c rest _ => exact (State.KeepsStart.of_loader (s.withPending_loader rest)).trans (exec_keepsStart c _ t h)

end Sys2Proof.Machine
end

section
/-! What the laws of the Uplink View and of the Notice Bus Controller read of a state, and that the operations and commands of the other
blocks leave it as it is. -/

namespace Sys2Proof.Machine

/-- What the view law, the mark law and the bus law read of a state. -/
structure Face where
  view : View
  start : Start
  statuses : Statuses
  ctl : BusState
  framer : Framer
  abortRun : Nat
  clashMark : Bool

def State.face (s : State) : Face :=
  ⟨s.view, s.start, s.ownStatuses, s.bus.ctl, s.bus.framer, s.bus.abortRun, s.bus.clashMark⟩

/-- Equal faces, field by field. -/
theorem State.face_eq {s t : State} (h : t.face = s.face) : t.view = s.view ∧ t.start = s.start ∧
    (∀ p, t.reported p = s.reported p) ∧ t.bus.ctl = s.bus.ctl ∧ t.bus.framer = s.bus.framer ∧
    t.bus.abortRun = s.bus.abortRun ∧ t.bus.clashMark = s.bus.clashMark := by
  simp only [State.face, Face.mk.injEq] at h
  obtain ⟨view, start, statuses, bus⟩ := h
  refine ⟨view, start, fun p => ?_, bus⟩
  have place := congrArg (fun v : Statuses => v[p]) statuses
  simpa [State.ownStatuses] using place

/-- The face of a state whose view, loader and monitors are another's and whose bus differs at most in its counters. -/
theorem State.face_of_monitors {s t : State} (view : t.view = s.view) (start : t.start = s.start)
    (monitors : t.monitors = s.monitors) (bus : t.bus = s.bus) : t.face = s.face := by
  simp only [State.face, State.ownStatuses, State.reported, view, start, monitors, bus]

/-- An event of the view that leaves the entries too leaves the face. -/
theorem State.SameButEntries.face {s t : State} (h : s.SameButEntries t) (view : t.view = s.view) : t.face = s.face :=
  State.face_of_monitors view h.start h.monitors h.bus

/-! ### The edges of the light lines -/

/-- A fall leaves every reported status (R5, R9). -/
theorem MonitorState.fall_status (out : Nat) (x : MonitorState) : (x.fall out).status = x.status := by
  cases x <;> rfl

/-- A rise leaves every reported status (R6, R8). -/
theorem Monitor.rise_status (out : Nat) (m : Monitor) : (m.rise out).state.status = m.state.status := by
  unfold Monitor.rise
  split <;> simp_all [MonitorState.status]

namespace State

variable (s : State)

/-! ### The blocks that no such law reads -/

@[simp] theorem withPins_face (x : Pins) : (s.withPins x).face = s.face := rfl
@[simp] theorem withClock_face (x : Clock) : (s.withClock x).face = s.face := rfl
@[simp] theorem withSender_face (x : Sender) : (s.withSender x).face = s.face := rfl
@[simp] theorem withStore_face (x : Store) : (s.withStore x).face = s.face := rfl
@[simp] theorem withEngine_face (x : Engine) : (s.withEngine x).face = s.face := rfl
@[simp] theorem withLookup_face (x : Lookup) : (s.withLookup x).face = s.face := rfl
@[simp] theorem withPort_face (x : TablePort) : (s.withPort x).face = s.face := rfl
@[simp] theorem withJournal_face (x : Journal) : (s.withJournal x).face = s.face := rfl
@[simp] theorem withModel_face (x : ModelOwn) : (s.withModel x).face = s.face := rfl
@[simp] theorem withPending_face (x : List Instr) : (s.withPending x).face = s.face := rfl

/-! ### Shared operations -/

@[simp] theorem elapse_face (d : Nat) : (s.elapse d).face = s.face := rfl
@[simp] theorem advanceTo_face (t : Nat) : (s.advanceTo t).face = s.face := rfl
@[simp] theorem append_face (b : JournalBody) : (s.append b).face = s.face := rfl
@[simp] theorem orderMade_face : s.orderMade.face = s.face := rfl
@[simp] theorem putGroupDrop_face (g : GroupNo) : (s.putGroupDrop g).face = s.face := rfl
@[simp] theorem raiseDue_face (f : FrameClass) : (s.raiseDue f).face = s.face := rfl
@[simp] theorem handBack_face (f : FrameClass) : (s.handBack f).face = s.face := rfl
@[simp] theorem setLight_face (p : Port) (level : Bool) : (s.setLight p level).face = s.face := rfl

@[simp] theorem appendIf_face (b : Option JournalBody) : (s.appendIf b).face = s.face := by
  cases b <;> rfl

@[simp] theorem entryMade_face : s.entryMade.face = s.face := s.entryMade_same.face s.entryMade_view

@[simp] theorem startSettling_face : s.startSettling.face = s.face := by
  unfold startSettling; split <;> rfl

@[simp] theorem completeJob_face : s.completeJob.face = s.face := startSettling_face _

/-! ### The counters of the bus -/

@[simp] theorem framingError_face (aborted : Bool) : (s.framingError aborted).face = s.face := by
  cases aborted <;> rfl

@[simp] theorem crcError_face (aborted : Bool) : (s.crcError aborted).face = s.face := by
  cases aborted <;> rfl

/-! ### Groups and the Repair Engine -/

@[simp] theorem handOutcome_face (g : GroupNo) (old new : Mode) (moved : Nat) :
    (s.handOutcome g old new moved).face = s.face := by
  simp only [handOutcome, withEngine_face]
  split <;> split <;> rfl

@[simp] theorem reconcileGroup_face (g : GroupNo) (snapshot : List Uplink) : (s.reconcileGroup g snapshot).face = s.face := by
  unfold reconcileGroup
  split <;> simp

@[simp] theorem installGroup_face (g : GroupNo) (r : Record) (snapshot : List Uplink) :
    (s.installGroup g r snapshot).face = s.face := by simp [installGroup]

@[simp] theorem releaseGroup_face (g : GroupNo) : (s.releaseGroup g).face = s.face := by simp [releaseGroup]

@[simp] theorem walkOn_face (job : Job) (position : Option GroupNo) : (s.walkOn job position).face = s.face := by
  unfold walkOn
  split <;> simp

@[simp] theorem suspend_face (job : Job) (position : GroupNo) : (s.suspend job position).face = s.face := by
  unfold suspend
  split
  · split <;> rfl
  all_goals rfl

@[simp] theorem boundary_face (job : Job) (position : GroupNo) : (s.boundary job position).face = s.face := by
  unfold boundary
  split <;> simp

@[simp] theorem begin_face (taken : Taken) : (s.begin taken).face = s.face := by
  cases taken with
  | build g => simp only [State.begin, beginBuild]; split <;> simp
  | urgent w => simp [State.begin]
  | sweep e => simp [State.begin]
  | calm w => simp [State.begin]

/-! ### The table port -/

@[simp] theorem respond_face (c : StatusCode) (data : List Byte) : (s.respond c data).face = s.face := rfl

@[simp] theorem putPending_face (g : GroupNo) (k : PendingKind) : (s.putPending g k).face = s.face := by
  unfold putPending
  split <;> simp

/-- The counters are no part of the face. -/
@[simp] theorem clearCounters_face : s.clearCounters.face = s.face := by
  simp [clearCounters, face, ownStatuses, reported]

/-- A command that comes in on the port does to the face what its effect does, or nothing. -/
theorem takeCommand_face_of (inPhase : Bool) (effect : State → State) (h : (effect s).face = s.face) :
    (s.takeCommand inPhase effect).face = s.face := by
  rcases s.takeCommand_cases inPhase effect with ⟨-, -, e⟩ | ⟨-, -, e⟩ | ⟨-, e⟩ | ⟨-, e⟩
  · rw [e, h]
  · rw [e]; rfl
  · rw [e]; rfl
  · rw [e]

/-! ### The monitors -/

/-- A monitor replaced by one with the same status is no change of the face. -/
theorem setMonitor_face (p : Port) (m : Monitor) (h : m.state.status = s.reported p) : (s.setMonitor p m).face = s.face := by
  have statuses : (s.setMonitor p m).ownStatuses = s.ownStatuses := by
    apply Vector.ext
    intro i hi
    have place := setAt_get s.monitors p ⟨i, hi⟩ m
    simp only [ownStatuses, reported, Vector.getElem_ofFn, setMonitor_monitors, place]
    split
    · next e => rw [h, e]; rfl
    · rfl
  simp only [face, statuses]
  rfl

end State

end Sys2Proof.Machine
end

section
/-! The commands that no law of the view or of the bus sees: the edges of the light lines, the beacon timer, those of the Repair Engine
and of the Lookup Unit, and those of the table port but for DRAIN and UNDRAIN. -/

namespace Sys2Proof

/-- The commands that leave the face as it is. -/
def Instr.quiet : Instr → Bool
  | .lightFall _ | .lightRise _ | .beaconTimerExpiry | .arbiterTake | .reconcile _ | .installation | .settleDeadline
  | .lookupRequest _ | .answer | .dropUplink | .dropGroup | .dropAll | .status | .stageClear | .stageMember _ _
  | .stageOptions _ _ | .commit _ _ | .release _ _ | .readGroup _ _ | .readSpread _ _ | .readView _ | .readCards
  | .readJournal _ | .readCounters | .warmReset | .unknownCommand _ => true
  | _ => false

namespace Machine

variable {s t : State}

theorem execLightFall_face (p : Port) (h : execLightFall p s = .next t) : t.face = s.face := by
  obtain rfl := Host.Outcome.next.inj h
  dsimp only
  split
  · split
    · simp
    · exact (State.setMonitor_face _ p _ (MonitorState.fall_status _ _)).trans (State.setLight_face s p false)
  · rfl

theorem execLightRise_face (p : Port) (h : execLightRise p s = .next t) : t.face = s.face := by
  obtain rfl := Host.Outcome.next.inj h
  dsimp only
  split
  · rfl
  · split
    · simp
    · exact (State.setMonitor_face _ p _ (Monitor.rise_status _ _)).trans (State.setLight_face s p true)

theorem execArbiterTake_face (h : execArbiterTake s = .next t) : t.face = s.face := by
  obtain rfl := Host.Outcome.next.inj h
  split
  · rfl
  · split <;> simp

theorem execReconcile_face (time : SnapshotTime) (h : execReconcile time s = .next t) : t.face = s.face := by
  obtain rfl := Host.Outcome.next.inj h
  split
  · rfl
  · split <;> simp

theorem execSettleDeadline_face (h : execSettleDeadline s = .next t) : t.face = s.face := by
  obtain rfl := Host.Outcome.next.inj h
  split
  · rfl
  · split
    · rfl
    · split <;> rfl

/-- A command that comes in on the port, where its effect leaves the face as it is. -/
theorem takeCommand_next_face {inPhase : Bool} {effect : State → State}
    (h : Host.Outcome.next (s.takeCommand inPhase effect) = (.next t : Host.Outcome State Fault Refusal))
    (e : (effect s).face = s.face) : t.face = s.face :=
  Host.Outcome.next.inj h ▸ State.takeCommand_face_of s inPhase effect e

theorem execCommit_face (b0 b1 : Byte) (h : execCommit b0 b1 s = .next t) : t.face = s.face := by
  refine takeCommand_next_face h ?_
  split
  · rfl
  · split <;> simp

theorem execRelease_face (b0 b1 : Byte) (h : execRelease b0 b1 s = .next t) : t.face = s.face := by
  refine takeCommand_next_face h ?_
  split <;> simp

theorem exec_quiet_face (c : Instr) (quiet : c.quiet = true) (h : exec c s = .next t) : t.face = s.face := by
  cases c with
  | lightFall p => exact execLightFall_face p h
  | lightRise p => exact execLightRise_face p h
  | beaconTimerExpiry => obtain rfl := Host.Outcome.next.inj h; split <;> rfl
  | arbiterTake => exact execArbiterTake_face h
  | reconcile time => exact execReconcile_face time h
  | installation => obtain rfl := Host.Outcome.next.inj h; split <;> simp
  | settleDeadline => exact execSettleDeadline_face h
  | lookupRequest => obtain rfl := Host.Outcome.next.inj h; split <;> rfl
  | answer => obtain rfl := Host.Outcome.next.inj h; split <;> rfl
  | dropUplink => obtain rfl := Host.Outcome.next.inj h; split <;> rfl
  | dropGroup => obtain rfl := Host.Outcome.next.inj h; split <;> rfl
  | dropAll => obtain rfl := Host.Outcome.next.inj h; split <;> rfl
  | status => exact takeCommand_next_face h rfl
  | stageClear => exact takeCommand_next_face h rfl
  | stageMember => exact takeCommand_next_face h rfl
  | stageOptions => exact takeCommand_next_face h rfl
  | commit b0 b1 => exact execCommit_face b0 b1 h
  | release b0 b1 => exact execRelease_face b0 b1 h
  | readGroup => exact takeCommand_next_face h rfl
  | readSpread => exact takeCommand_next_face h rfl
  | readView => exact takeCommand_next_face h rfl
  | readCards => exact takeCommand_next_face h rfl
  | readJournal => exact takeCommand_next_face h rfl
  | readCounters => exact takeCommand_next_face h s.clearCounters_face
  | warmReset => exact takeCommand_next_face h rfl
  | unknownCommand byte =>
    obtain rfl := Host.Outcome.next.inj h
    split
    · rfl
    · exact s.takeCommand_face_of _ _ rfl
  | _ => cases quiet

end Machine

end Sys2Proof
end

section
/-! The view law (R31, R32, R47): the events that move entries, each keeping it. -/

namespace Sys2Proof.Machine

variable {s t : State}

/-! ### Entries and standings -/

/-- What a standing makes of an entry agrees with it (R31, R32). -/
theorem Entry.applyStanding_agrees (now delay : Nat) (st : Standing) (e : Entry) :
    (e.applyStanding now delay st).state.agrees st := by
  cases st with
  | dark r => rfl
  | inService =>
    unfold Entry.applyStanding
    cases h : e.state with
    | admitted => simp [h, EntryState.agrees]
    | settling d => simp [h, EntryState.agrees]
    | dark r =>
      dsimp only
      split
      · rfl
      · split <;> rfl

/-- An entry refound in LOADING is as it was. -/
theorem State.standing_of_reset (h : s.view = View.reset) (u : Uplink) : s.standing u = .dark .unheard := by
  have card : s.view.cards[cardOf u] = ⟨.unheard, none, false⟩ := by simp [h, View.reset]
  simp only [State.standing, card]

/-- A standing reads the one card record, the draining flag and the one port's status. -/
theorem State.standing_of_card (u : Uplink) (card : t.view.cards[cardOf u] = s.view.cards[cardOf u])
    (draining : t.view.draining = s.view.draining) (reported : t.reported (portOf u) = s.reported (portOf u)) :
    t.standing u = s.standing u := by
  simp only [State.standing, card, draining, reported]

/-- A standing reads no deadline. -/
theorem State.standing_of_code (u : Uplink)
    (code : t.view.cards[cardOf u].presence.code = s.view.cards[cardOf u].presence.code)
    (recheck : t.view.cards[cardOf u].recheck = s.view.cards[cardOf u].recheck)
    (heard : t.view.cards[cardOf u].lastHeard = s.view.cards[cardOf u].lastHeard)
    (draining : t.view.draining = s.view.draining) (reported : t.reported (portOf u) = s.reported (portOf u)) :
    t.standing u = s.standing u := by
  simp only [State.standing, CardRecord.heard, recheck, heard, draining, reported]
  generalize t.view.cards[cardOf u].presence = x at code
  generalize s.view.cards[cardOf u].presence = y at code
  cases x <;> cases y <;> first | rfl | simp [Presence.code] at code

/-- A standing of a remote card reads its record alone. -/
theorem State.standing_remote (u : Uplink) (remote : s.view.cards[cardOf u].presence ≠ .self)
    (card : t.view.cards[cardOf u] = s.view.cards[cardOf u]) : t.standing u = s.standing u := by
  simp only [State.standing, card]
  generalize s.view.cards[cardOf u].presence = x at remote
  cases x with
  | self => exact absurd rfl remote
  | _ => rfl

/-- The view law reads the face alone. -/
theorem State.ViewLaw.of_face (law : s.ViewLaw) (h : t.face = s.face) : t.ViewLaw := by
  obtain ⟨view, start, reported, ctl, framer, -, -⟩ := State.face_eq h
  have loading : t.isLoading = s.isLoading := by simp only [State.isLoading, start]
  refine ⟨fun c => ?_, fun l => ?_, fun u => ?_⟩
  · rw [view, start, loading]
    exact law.own c
  · obtain ⟨reset, stopped, silent⟩ := law.loading (loading ▸ l)
    exact ⟨view.trans reset, ctl.trans stopped, framer.trans silent⟩
  · rw [State.standing_congr u (congrArg View.cards view) (congrArg View.draining view) (reported _), view]
    exact law.agree u

/-- In LOADING a refind moves nothing (R47). -/
theorem State.refindAll_reset (us : List Uplink) (nd : us.Nodup) (h : s.view = View.reset) :
    (s.refindAll us).view = View.reset := by
  have same := s.refindAll_same us
  have entries : (s.refindAll us).view.entries = View.reset.entries := by
    apply Vector.ext
    intro i hi
    have before : s.view.entries[(⟨i, hi⟩ : Uplink)] = ⟨.dark .unheard, true⟩ := by simp [h, View.reset]
    have after : (s.refindAll us).view.entries[(⟨i, hi⟩ : Uplink)] = ⟨.dark .unheard, true⟩ := by
      by_cases m : (⟨i, hi⟩ : Uplink) ∈ us
      · rw [State.refindAll_mem us s _ nd m, State.standing_of_reset h, before]
        rfl
      · rw [State.refindAll_other us s _ m, before]
    simpa [View.reset] using after
  calc (s.refindAll us).view
      = ⟨(s.refindAll us).view.entries, (s.refindAll us).view.cards, (s.refindAll us).view.draining,
          (s.refindAll us).view.isolated⟩ := rfl
    _ = View.reset := by rw [entries, same.cards, same.draining, same.isolated, h]

/-- Entries refound: the law holds after it where it held before of all but these entries. -/
theorem State.ViewLaw.of_refindAll (us : List Uplink) (nd : us.Nodup)
    (own : ∀ c : CardId, s.view.cards[c].presence = .self ↔ (c = s.start.cardId ∧ s.isLoading = false))
    (loading : s.isLoading = true → s.AtRestInLoading)
    (agree : ∀ u, u ∉ us → s.view.entries[u].state.agrees (s.standing u)) : (s.refindAll us).ViewLaw := by
  have same := s.refindAll_same us
  have phase : (s.refindAll us).isLoading = s.isLoading := by simp only [State.isLoading, same.start]
  refine ⟨fun c => ?_, fun l => ?_, fun u => ?_⟩
  · rw [same.cards, same.start, phase]
    exact own c
  · obtain ⟨reset, stopped, silent⟩ := loading (phase ▸ l)
    exact ⟨State.refindAll_reset us nd reset, by rw [same.bus, stopped], by rw [same.bus, silent]⟩
  · rw [same.standing]
    by_cases m : u ∈ us
    · rw [State.refindAll_mem us s u nd m]
      exact Entry.applyStanding_agrees _ _ _ _
    · rw [State.refindAll_other us s u m]
      exact agree u m

/-- An event of a running part at some cards or at the draining flag, after which the uplinks it concerns are refound. -/
theorem State.ViewLaw.of_refound (law : s.ViewLaw) (us : List Uplink) (nd : us.Nodup) (running : s.isLoading = false)
    (start : t.start = s.start)
    (self : ∀ c : CardId, t.view.cards[c].presence = .self ↔ s.view.cards[c].presence = .self)
    (others : ∀ u, u ∉ us → t.view.entries[u] = s.view.entries[u] ∧ t.standing u = s.standing u) :
    (t.refindAll us).ViewLaw := by
  have phase : t.isLoading = false := by simpa only [State.isLoading, start] using running
  refine .of_refindAll us nd (fun c => ?_) (fun l => by rw [phase] at l; cases l) fun u m => ?_
  · rw [self c, start, phase, law.own c, running]
  · obtain ⟨entry, standing⟩ := others u m
    rw [entry, standing]
    exact law.agree u

/-- An event of a running part that changes no standing. -/
theorem State.ViewLaw.of_standings (law : s.ViewLaw) (running : s.isLoading = false) (start : t.start = s.start)
    (entries : t.view.entries = s.view.entries)
    (self : ∀ c : CardId, t.view.cards[c].presence = .self ↔ s.view.cards[c].presence = .self)
    (standings : ∀ u, t.standing u = s.standing u) : t.ViewLaw :=
  law.of_refound [] .nil running start self fun u _ => ⟨by rw [entries], standings u⟩

theorem uplinksOf_nodup (c : CardId) : (uplinksOf c).Nodup := (uplinksOf_ascending c).imp ne_of_lt

theorem mem_uplinksOf (c : CardId) (u : Uplink) : u ∈ uplinksOf c ↔ cardOf u = c := by
  simp only [uplinksOf, List.mem_map, List.mem_finRange, true_and]
  constructor
  · rintro ⟨p, rfl⟩
    exact cardOf_uplinkOf c p
  · rintro rfl
    exact ⟨portOf u, ((uplinkOf_eq_iff u _ _).2 ⟨rfl, rfl⟩).symm⟩

theorem State.remoteUplinks_nodup (s : State) : s.remoteUplinks.Nodup := s.remoteUplinks_ascending.imp ne_of_lt

theorem State.mem_remoteUplinks (s : State) (u : Uplink) : u ∈ s.remoteUplinks ↔ cardOf u ≠ s.start.cardId := by
  simp [State.remoteUplinks]

/-! ### Monitors -/

/-- Only the own card's uplinks have a standing that reads a monitor (R31). -/
theorem State.standing_setMonitor (law : s.ViewLaw) (p : Port) (m : Monitor) (u : Uplink)
    (h : u ≠ uplinkOf s.start.cardId p) : (s.setMonitor p m).standing u = s.standing u := by
  by_cases c : cardOf u = s.start.cardId
  · have port : p ≠ portOf u := fun e => h ((uplinkOf_eq_iff u _ _).2 ⟨c, e.symm⟩)
    refine State.standing_congr u rfl rfl ?_
    simp only [State.reported, State.setMonitor_monitors, setAt_get, if_neg port]
  · have remote : s.view.cards[cardOf u].presence ≠ .self := fun e => c ((law.own _).1 e).1
    exact State.standing_remote u remote rfl

/-- A change of status handed on refinds the one own entry, with a due flag raised or not; no change hands on nothing (R13, R38). -/
theorem State.handStatus_cases (p : Port) (old : PortStatus) (s : State) :
    (old = s.reported p ∧ s.handStatus p old = s) ∨
    ∃ r : State, r.face = s.face ∧ s.handStatus p old = r.refindAll [uplinkOf s.start.cardId p] := by
  unfold State.handStatus
  split
  · next e => exact .inl ⟨e, rfl⟩
  · exact .inr ⟨_, by split <;> rfl, rfl⟩

/-- A monitor that moves, with its change of status handed on (R13, R38). -/
theorem State.ViewLaw.handStatus (law : s.ViewLaw) (p : Port) (m : Monitor) :
    ((s.setMonitor p m).handStatus p (s.reported p)).ViewLaw := by
  rcases (s.setMonitor p m).handStatus_cases p (s.reported p) with ⟨same, e⟩ | ⟨r, face, e⟩ <;> rw [e]
  · exact law.of_face (s.setMonitor_face p m ((State.reported_setMonitor p m s).symm.trans same.symm))
  · obtain ⟨view, start, reported, ctl, framer, -, -⟩ := State.face_eq face
    have phase : r.isLoading = s.isLoading := by simp only [State.isLoading, start]; rfl
    refine .of_refindAll _ (List.nodup_singleton _) (fun c => ?_) (fun l => ?_) fun u other => ?_
    · rw [view, start, phase]
      exact law.own c
    · obtain ⟨reset, stopped, silent⟩ := law.loading (phase ▸ l)
      exact ⟨view.trans reset, ctl.trans stopped, framer.trans silent⟩
    · rw [State.standing_congr u (congrArg View.cards view) (congrArg View.draining view) (reported _),
        State.standing_setMonitor law p m u fun k => other (List.mem_singleton.2 k), view]
      exact law.agree u

theorem State.ViewLaw.decayPort (law : s.ViewLaw) (p : Port) : (s.decayPort p).ViewLaw := by
  rw [State.decayPort_eq]
  exact law.handStatus p _

theorem State.ViewLaw.foldl_decayPort (law : s.ViewLaw) (ps : List Port) : (ps.foldl State.decayPort s).ViewLaw := by
  induction ps generalizing s with
  | nil => exact law
  | cons p ps ih => exact ih (law.decayPort p)

/-! ### The commands that move entries -/

/-- SETTLING and ADMITTED agree with the same standing (R32, R33). -/
theorem execAdmissionDeadline_viewLaw (u : Uplink) (law : s.ViewLaw) (h : execAdmissionDeadline u s = .next t) :
    t.ViewLaw := by
  obtain rfl := Host.Outcome.next.inj h
  split
  · next deadline settling =>
    have same := (s.advanceTo deadline).moveEntry_same u { s.view.entries[u] with state := .admitted }
    have entries := (s.advanceTo deadline).moveEntry_entries u { s.view.entries[u] with state := .admitted }
    have inService : s.standing u = .inService := by
      have agree := law.agree u
      rwa [settling] at agree
    generalize (s.advanceTo deadline).moveEntry u { s.view.entries[u] with state := .admitted } = t at same entries
    have running : s.isLoading = false := by
      by_contra l
      have reset := (law.loading (by simpa using l)).view
      rw [State.standing_of_reset reset] at inService
      cases inService
    have phase : t.isLoading = false := by rw [State.isLoading, same.start]; exact running
    refine ⟨fun c => ?_, fun l => (by rw [phase] at l; cases l), fun v => ?_⟩
    · have own := law.own c
      rw [running] at own
      rw [same.cards, same.start, phase]
      exact own
    · rw [same.standing, entries, setAt_get]
      split
      · next e => exact e ▸ inService
      · exact law.agree v
  all_goals exact law

/-- An event at the record of one remote card, after which its uplinks are refound. -/
theorem State.ViewLaw.of_card (law : s.ViewLaw) (c : CardId) (x : CardRecord) (running : s.isLoading = false)
    (remote : s.view.cards[c].presence ≠ .self) (still : x.presence ≠ .self) (start : t.start = s.start)
    (reported : ∀ p, t.reported p = s.reported p) (view : t.view = { s.view with cards := setAt s.view.cards c x }) :
    (t.refindAll (uplinksOf c)).ViewLaw := by
  refine law.of_refound _ (uplinksOf_nodup c) running start (fun k => ?_) fun u other => ?_
  · rw [view]
    dsimp only
    rw [setAt_get]
    split
    · next e => exact ⟨fun k => absurd k still, fun k => absurd (e ▸ k) remote⟩
    · exact Iff.rfl
  · have card : c ≠ cardOf u := fun e => other ((mem_uplinksOf c u).2 e.symm)
    have record : t.view.cards[cardOf u] = s.view.cards[cardOf u] := by
      rw [view]
      exact setAt_other _ _ _ _ card
    exact ⟨by rw [view], State.standing_of_card u record (by rw [view]) (reported _)⟩

theorem Presence.remote_of_dueTime {x : Presence} {time : Nat} (due : x.dueTime = some time) : x ≠ .self := by
  rintro rfl
  cases due

/-- A card with a running deadline is remote, and the part is running (R43). -/
theorem execPresenceDeadline_viewLaw (c : CardId) (law : s.ViewLaw) (h : execPresenceDeadline c s = .next t) :
    t.ViewLaw := by
  obtain rfl := Host.Outcome.next.inj h
  split
  · next time due =>
    have running : s.isLoading = false := by
      by_contra l
      have reset := (law.loading (by simpa using l)).view
      simp [reset, View.reset, Presence.dueTime] at due
    exact law.of_card c _ running (Presence.remote_of_dueTime due) (by simp) rfl (fun _ => rfl) rfl
  · exact law

/-- A frame of another card (R41, R42). -/
theorem State.ViewLaw.applyFrame (law : s.ViewLaw) (running : s.isLoading = false) (c : CardId) (other : c ≠ s.start.cardId)
    (cls : FrameClass) (st : Statuses) : (s.applyFrame c cls st).ViewLaw := by
  unfold State.applyFrame
  dsimp only
  generalize (if cls = .withdraw then Presence.withdrawRecord c _ else _) = record
  have frame : ∀ t : State, (t.appendIf record).view = t.view ∧ (t.appendIf record).start = t.start ∧
      ∀ p, (t.appendIf record).reported p = t.reported p := fun t => by
    obtain ⟨view, start, reported, -⟩ := State.face_eq (t.appendIf_face record)
    exact ⟨view, start, reported⟩
  obtain ⟨view, start, reported⟩ := frame (s.setCard c _)
  refine law.of_card c _ running (fun self => other ((law.own c).1 self).1) ?_ start reported view
  split <;> simp

end Sys2Proof.Machine
end

section
/-! What the bits of the notice bus line do to the view: nothing, or they bring a frame of another card. -/

namespace Sys2Proof.Machine

variable {s t : State}

/-- What a bit of the line brings the view: nothing, or a frame of another card, which is applied (R41, R42, R57). -/
def State.Hears (s t : State) : Prop :=
  t.view = s.view ∨ ∃ (r : State) (c : CardId) (cls : FrameClass) (st : Statuses),
    r.view = s.view ∧ r.loader = s.loader ∧ r.monitors = s.monitors ∧ c ≠ s.start.cardId ∧ t = r.applyFrame c cls st

/-- A change at the bus before it leaves what is heard as it is. -/
theorem State.Hears.before {r : State} (h : r.Hears t) (view : r.view = s.view) (loader : r.loader = s.loader)
    (monitors : r.monitors = s.monitors) : s.Hears t := by
  have start : r.start = s.start := congrArg (·.1) loader
  rcases h with h | ⟨x, c, cls, st, hv, hl, hm, other, e⟩
  · exact .inl (h.trans view)
  · exact .inr ⟨x, c, cls, st, hv.trans view, hl.trans loader, hm.trans monitors, start ▸ other, e⟩

namespace State

variable (s)

@[simp] theorem setFramer_view (f : Framer) : (s.setFramer f).view = s.view := rfl
@[simp] theorem enterClashed_view : s.enterClashed.view = s.view := rfl
@[simp] theorem startFrame_view : s.startFrame.view = s.view := rfl
@[simp] theorem completeFrame_view (cls : FrameClass) : (s.completeFrame cls).view = s.view := rfl
@[simp] theorem loseArbitration_view (cls : FrameClass) (taken : List Bool) : (s.loseArbitration cls taken).view = s.view := rfl

@[simp] theorem framingError_view (aborted : Bool) : (s.framingError aborted).view = s.view := by cases aborted <;> rfl
@[simp] theorem crcError_view (aborted : Bool) : (s.crcError aborted).view = s.view := by cases aborted <;> rfl

@[simp] theorem countAbort_view (cls : FrameClass) : (s.countAbort cls).view = s.view := by
  simp only [countAbort]; split <;> rfl

@[simp] theorem startEdge_view (idle : Nat) : (s.startEdge idle).view = s.view := by
  rcases s.startEdge_cases idle with ⟨-, e⟩ | ⟨-, -, e⟩ | ⟨-, -, e⟩ <;> simp [e]

theorem dispose_hears (card : CardId) (cls : FrameClass) (st : Statuses) : s.Hears (s.dispose card cls st) := by
  simp only [dispose]
  split
  · exact .inl (by split <;> rfl)
  · next other =>
    exact .inr ⟨s.withBus { s.bus with framesReceived := satInc s.bus.framesReceived }, card, cls, st, rfl, rfl, rfl, other, rfl⟩

theorem judge_hears (aborted : Bool) (bits : BitVec 48) : s.Hears (s.judge aborted bits) := by
  unfold judge
  split
  · exact .inl (by simp)
  · split
    · exact .inl (by simp)
    · exact dispose_hears _ _ _ _

theorem hear_hears (aborted : Bool) (taken : List Bool) : s.Hears (s.hear aborted taken) := by
  rcases s.hear_cases aborted taken with ⟨-, e⟩ | ⟨-, -, e⟩ | ⟨-, -, e⟩ <;> rw [e]
  · exact .inl (by simp)
  · exact .inl rfl
  · exact (judge_hears _ _ _).before rfl rfl rfl

theorem abortFrame_hears (cls : FrameClass) (taken : List Bool) : s.Hears (s.abortFrame cls taken) :=
  (hear_hears _ _ _).before (by simp) (by simp) (by simp)

theorem readBack_hears (cls : FrameClass) (st : Statuses) (sent : Nat) (b : Bool) : s.Hears (s.readBack cls st sent b) := by
  cases own : (lineBits cls s.start.cardId st)[sent]? with
  | none => exact .inl (by simp [readBack, own])
  | some x =>
    rcases s.readBack_cases cls st sent x b own with ⟨-, -, e⟩ | ⟨-, -, e⟩ | ⟨-, -, e⟩ | ⟨-, -, e⟩ <;> rw [e]
    · exact .inl rfl
    · exact .inl rfl
    · exact .inl rfl
    · exact abortFrame_hears _ _ _

theorem takeBit_hears (b : Bool) : s.Hears (s.takeBit b) := by
  unfold takeBit
  split
  · exact .inl rfl
  · exact .inl (by split <;> simp)
  · exact hear_hears _ _ _
  · exact readBack_hears _ _ _ _ _

end State

end Sys2Proof.Machine
end

section
/-! The view law (R31, R32, R47) over every command, and what it says of an ADMITTED entry. -/

namespace Sys2Proof.Machine

variable {s t : State}

/-! ### A running part -/

/-- In LOADING the controller is STOPPED (R69). -/
theorem State.ViewLaw.running_of_ctl (law : s.ViewLaw) (h : s.bus.ctl ≠ .stopped) : s.isLoading = false := by
  by_contra l
  exact h (law.loading (by simpa using l)).stopped

theorem State.ViewLaw.running_of_receives (law : s.ViewLaw) (h : s.bus.ctl.receives = true) : s.isLoading = false :=
  law.running_of_ctl fun e => by rw [e] at h; cases h

theorem State.ViewLaw.running_of_framer (law : s.ViewLaw) (h : s.bus.framer ≠ .off) : s.isLoading = false := by
  by_contra l
  exact h (law.loading (by simpa using l)).silent

/-- Of a running part the law reads the view, the own card and the monitors. -/
theorem State.ViewLaw.of_view (law : s.ViewLaw) (running : s.isLoading = false) (view : t.view = s.view)
    (loader : t.loader = s.loader) (monitors : t.monitors = s.monitors) : t.ViewLaw := by
  have start : t.start = s.start := congrArg (·.1) loader
  have reported : ∀ p, t.reported p = s.reported p := fun p => by simp only [State.reported, monitors]
  exact law.of_standings running start (congrArg View.entries view) (fun c => by rw [view]) fun u =>
    State.standing_congr u (congrArg View.cards view) (congrArg View.draining view) (reported _)

theorem State.ViewLaw.of_hears (law : s.ViewLaw) (running : s.isLoading = false) (h : s.Hears t)
    (loader : t.loader = s.loader) (monitors : t.monitors = s.monitors) : t.ViewLaw := by
  rcases h with view | ⟨r, c, cls, st, hv, hl, hm, other, e⟩
  · exact law.of_view running view loader monitors
  · have start : r.start = s.start := congrArg (·.1) hl
    have running' : r.isLoading = false := by rw [State.isLoading, start]; exact running
    rw [← start] at other
    rw [e]
    exact (law.of_view running hv hl hm).applyFrame running' c other cls st

theorem State.ViewLaw.takeBits (law : s.ViewLaw) (running : s.isLoading = false) (bits : List Bool) :
    (s.takeBits bits).ViewLaw := by
  induction bits generalizing s with
  | nil => exact law
  | cons b bits ih =>
    have start : (s.takeBit b).start = s.start := congrArg (·.1) (s.takeBit_loader b)
    exact ih (law.of_hears running (s.takeBit_hears b) (s.takeBit_loader b) (s.takeBit_monitors b))
      (by rw [State.isLoading, start]; exact running)

/-! ### Isolation and draining -/

/-- The code of a presence tells SELF from the others. -/
theorem Presence.self_iff_code (x : Presence) : x = .self ↔ x.code = 0#3 := by
  cases x <;> simp [Presence.code]

theorem Presence.suspend_code (x : Presence) : x.suspend.code = x.code := by cases x <;> rfl

theorem Presence.resume_code (time : Nat) (x : Presence) : (x.resume time).code = x.code := by
  rcases x with _ | _ | ⟨_ | _⟩ | ⟨_ | _⟩ | _ <;> rfl

/-- A card record as the report of isolation leaves it (R44, R45). -/
def CardRecord.isolated (policy : Policy) (r : CardRecord) : CardRecord :=
  { r with
    presence := r.presence.suspend
    recheck := r.recheck || (decide (policy = .localOnly) && r.presence.heard) }

/-- The state when isolation is reported, before any entry is refound (R44, R45). -/
def State.isolationMarked (s : State) : State :=
  { s with view := { s.view with
      isolated := true
      cards := Vector.ofFn fun c => s.view.cards[c].isolated s.start.settings.policy } }

theorem State.isolationMarked_frame (s : State) : s.isolationMarked.start = s.start ∧ s.isolationMarked.view.entries = s.view.entries ∧
    s.isolationMarked.view.draining = s.view.draining ∧ ∀ p, s.isolationMarked.reported p = s.reported p := by
  simp only [State.isolationMarked, State.reported, true_and, implies_true]

theorem State.isolationMarked_card (s : State) (c : CardId) :
    s.isolationMarked.view.cards[c] = s.view.cards[c].isolated s.start.settings.policy := by
  simp [State.isolationMarked]

/-- The report of isolation: under LOCAL the remote uplinks are refound (R44, R45). -/
theorem State.isolationStart_eq (s : State) : s.isolationStart =
    if s.start.settings.policy = .localOnly then s.isolationMarked.refindAll s.remoteUplinks else s.isolationMarked := by
  simp only [State.isolationStart, beq_iff_eq]
  rfl

theorem State.isolationMarked_standing (s : State) (u : Uplink)
    (h : s.start.settings.policy = .localOnly → s.view.cards[cardOf u].presence.heard = false) :
    s.isolationMarked.standing u = s.standing u := by
  have card := s.isolationMarked_card (cardOf u)
  obtain ⟨-, -, draining, reported⟩ := s.isolationMarked_frame
  refine State.standing_of_code u ?_ ?_ ?_ draining (reported _)
  · rw [card]
    exact Presence.suspend_code _
  · rw [card]
    by_cases policy : s.start.settings.policy = .localOnly
    · have unheard := h policy
      simp only [CardRecord.isolated, unheard, Bool.and_false, Bool.or_false]
    · simp [CardRecord.isolated, policy]
  · rw [card]
    rfl

/-- The report of isolation (R44, R45): under HOLD it changes no standing, under LOCAL none of the own card. -/
theorem State.ViewLaw.isolationStart (law : s.ViewLaw) (running : s.isLoading = false) : s.isolationStart.ViewLaw := by
  have self : ∀ c : CardId, s.isolationMarked.view.cards[c].presence = .self ↔ s.view.cards[c].presence = .self := fun c => by
    rw [s.isolationMarked_card, Presence.self_iff_code, Presence.self_iff_code]
    exact iff_of_eq (congrArg (· = 0#3) (Presence.suspend_code _))
  obtain ⟨start, entries, -, -⟩ := s.isolationMarked_frame
  rw [State.isolationStart_eq]
  split
  · refine law.of_refound _ s.remoteUplinks_nodup running start self fun u own =>
      ⟨by rw [entries], s.isolationMarked_standing u fun _ => ?_⟩
    have card : cardOf u = s.start.cardId := by
      by_contra remote
      exact own ((State.mem_remoteUplinks _ u).2 remote)
    rw [(law.own (cardOf u)).2 ⟨card, running⟩]
    rfl
  · next hold =>
    exact law.of_standings running start entries self fun u => s.isolationMarked_standing u fun k => absurd k hold

theorem State.isolationEnd_frame (s : State) : s.isolationEnd.start = s.start ∧ s.isolationEnd.view.entries = s.view.entries ∧
    s.isolationEnd.view.draining = s.view.draining ∧ ∀ p, s.isolationEnd.reported p = s.reported p := by
  simp only [State.isolationEnd, State.withView, State.reported, true_and, implies_true]

theorem State.isolationEnd_card (s : State) (c : CardId) : s.isolationEnd.view.cards[c] =
    { s.view.cards[c] with presence := s.view.cards[c].presence.resume (s.clock.now + s.presenceWindow) } := by
  simp [State.isolationEnd]

/-- The report of the end of isolation (R46). -/
theorem State.ViewLaw.isolationEnd (law : s.ViewLaw) (running : s.isLoading = false) : s.isolationEnd.ViewLaw := by
  obtain ⟨start, entries, draining, reported⟩ := s.isolationEnd_frame
  refine law.of_standings running start entries (fun c => ?_) fun u => ?_
  · rw [s.isolationEnd_card, Presence.self_iff_code, Presence.self_iff_code, Presence.resume_code]
  · have card := s.isolationEnd_card (cardOf u)
    refine State.standing_of_code u ?_ (by rw [card]) (by rw [card]) draining (reported _)
    rw [card]
    exact Presence.resume_code _ _

/-- The draining flag replaced: it is read by the standings of the own card alone (R39, R40). -/
theorem State.ViewLaw.setDraining (law : s.ViewLaw) (running : s.isLoading = false) (b : Bool) :
    (s.setDraining b).ViewLaw := by
  refine law.of_refound _ (uplinksOf_nodup _) running rfl (fun _ => Iff.rfl) fun u other => ⟨rfl, ?_⟩
  refine State.standing_remote u (fun self => other ?_) rfl
  exact (mem_uplinksOf _ u).2 ((law.own _).1 self).1

/-! ### Resets and the load -/

/-- In LOADING the law asks the reset values of the view and the bus (R47, R69). -/
theorem State.AtRestInLoading.viewLaw (rest : s.AtRestInLoading) (loading : s.isLoading = true) : s.ViewLaw := by
  refine ⟨fun c => ?_, fun _ => rest, fun u => ?_⟩
  · have card : s.view.cards[c] = ⟨.unheard, none, false⟩ := by simp [rest.view, View.reset]
    simp [card, loading]
  · have entry : s.view.entries[u] = ⟨.dark .unheard, true⟩ := by simp [rest.view, View.reset]
    rw [State.standing_of_reset rest.view, entry]
    rfl

/-- The load begins with the part at its reset values (R169). -/
theorem State.AtRestInLoading.beginLoad (rest : s.AtRestInLoading) (loading : s.isLoading = true) (straps : CardId) :
    (s.beginLoad straps).ViewLaw := by
  by_cases held : s.pins.resetN = true ∨ s.pins.warmN = true
  · rw [State.beginLoad_held straps s held]
    exact rest.viewLaw loading
  · rw [State.beginLoad_free straps s held]
    obtain ⟨reset, stopped, silent⟩ := rest
    exact State.AtRestInLoading.viewLaw ⟨reset, stopped, silent⟩ rfl

theorem State.coldReset_atRest (s : State) : s.coldReset.AtRestInLoading := ⟨rfl, rfl, rfl⟩

theorem State.warmReset_atRest (s : State) : s.warmReset.AtRestInLoading := ⟨rfl, rfl, rfl⟩

/-- While a reset line is asserted the part is at its reset values (R47, R168). -/
theorem State.ViewLaw.atRest_of_held (law : s.ViewLaw) (reset : s.ResetLaw) (held : s.pins.resetN = true ∨ s.pins.warmN = true) :
    s.AtRestInLoading ∧ s.isLoading = true := by
  have loading : s.isLoading = true := by rw [State.isLoading, reset held]
  exact ⟨law.loading loading, loading⟩

/-- At the end of loading the strapped card is SELF, and its entries have the reasons its monitors report (R15, R47). -/
theorem State.ViewLaw.finishLoading (law : s.ViewLaw) (loading : s.isLoading = true) (c : Settings)
    (noted : Option JournalBody) : (s.finishLoading c noted).ViewLaw := by
  obtain ⟨reset, -, -⟩ := law.loading loading
  have unheard : ∀ k : CardId, s.view.cards[k] = ⟨.unheard, none, false⟩ := fun k => by simp [reset, View.reset]
  have dark : ∀ u : Uplink, s.view.entries[u] = ⟨.dark .unheard, true⟩ := fun u => by simp [reset, View.reset]
  have undrained : s.view.draining = false := by simp [reset, View.reset]
  have card := s.finishLoading_card c noted
  have entry := s.finishLoading_entry c noted
  have monitor := s.finishLoading_monitor c noted
  have eq := s.finishLoading_eq c noted
  generalize s.finishLoading c noted = t at *
  have running : t.isLoading = false := by rw [eq]; rfl
  have start : t.start.cardId = s.start.cardId := by rw [eq]
  have draining : t.view.draining = false := by rw [eq]; exact undrained
  refine ⟨fun k => ?_, fun l => (by rw [running] at l; cases l), fun u => ?_⟩
  · rw [card, start, running, unheard]
    split <;> simp_all
  · rw [entry]
    by_cases own : cardOf u = s.start.cardId
    · have self : t.view.cards[cardOf u].presence = .self := by rw [card, if_pos own]
      have starting : ∀ watched light out, ((s.monitors[portOf u]).takeUp watched light out).state.status.standing =
          .dark (if watched = false then .unwatched else .lost) := fun watched light out => by
        cases watched <;> cases light <;> rfl
      have standing : t.standing u = (t.reported (portOf u)).standing := by
        simp only [State.standing, self, draining]
        rfl
      rw [if_pos own, standing, State.reported, monitor, starting]
      rfl
    · have standing : t.standing u = .dark .unheard := by
        simp only [State.standing, card, if_neg own, unheard]
      rw [if_neg own, standing, dark]
      rfl

end Sys2Proof.Machine
end

section
/-! The view law over every command (R31, R32, R47), and what it says of an ADMITTED entry. -/

namespace Sys2Proof.Machine

variable {s t : State}

/-! ### The commands of the bus -/

theorem execFrameReceived_viewLaw (gap : Nat) (bits : List Bool) (law : s.ViewLaw)
    (h : execFrameReceived gap bits s = .next t) : t.ViewLaw := by
  obtain rfl := Host.Outcome.next.inj h
  split
  · next receives =>
    have running := law.running_of_receives receives
    split
    · next idle _ =>
      have edge : (s.startEdge (idle + gap)).ViewLaw := law.of_view running (by simp) (by simp) (by simp)
      have start : (s.startEdge (idle + gap)).start = s.start := congrArg (·.1) (s.startEdge_loader _)
      exact edge.takeBits (by rw [State.isLoading, start]; exact running) bits
    · exact law.takeBits running bits
    · exact law.takeBits running bits
    · exact law
  · exact law

theorem execFrameStart_view (gap : Nat) (edge : Bool) (h : execFrameStart gap edge s = .next t) :
    t = s ∨ (s.bus.ctl.receives = true ∧ t.view = s.view) := by
  obtain rfl := Host.Outcome.next.inj h
  split
  · next receives =>
    split
    · refine .inr ⟨receives, ?_⟩
      split
      · simp
      · split <;> rfl
    all_goals exact .inl rfl
  · exact .inl rfl

/-- What ABORT brings the view is what the bits it stands for bring. -/
theorem execAbort_hears (h : execAbort s = .next t) : t = s ∨ (s.bus.framer ≠ .off ∧ s.Hears t) := by
  obtain rfl := Host.Outcome.next.inj h
  split
  · next sending =>
    have inFrame : s.bus.framer ≠ .off := by simp [sending]
    dsimp only
    split
    · exact .inr ⟨inFrame, State.abortFrame_hears _ _ _⟩
    · split
      · exact .inr ⟨inFrame, State.abortFrame_hears _ _ _⟩
      · exact .inl rfl
  all_goals exact .inl rfl

theorem execArbitrationLost_view (h : execArbitrationLost s = .next t) :
    t = s ∨ (s.bus.framer ≠ .off ∧ t.view = s.view) := by
  obtain rfl := Host.Outcome.next.inj h
  split
  · next sending =>
    dsimp only
    split
    · exact .inr ⟨by simp [sending], rfl⟩
    · exact .inl rfl
  all_goals exact .inl rfl

theorem execFrameComplete_view (h : execFrameComplete s = .next t) : t = s ∨ (s.bus.framer ≠ .off ∧ t.view = s.view) := by
  obtain rfl := Host.Outcome.next.inj h
  split
  · next sending => exact .inr ⟨by simp [sending], rfl⟩
  all_goals exact .inl rfl

theorem execMuteTimerExpiry_view (h : execMuteTimerExpiry s = .next t) :
    t = s ∨ (s.bus.ctl ≠ .stopped ∧ t.view = s.view) := by
  obtain rfl := Host.Outcome.next.inj h
  split
  · next muted => exact .inr ⟨by simp [muted], rfl⟩
  all_goals exact .inl rfl

@[simp] theorem State.discardReception_view (receiving : Bool) (s : State) : (s.discardReception receiving).view = s.view := by
  unfold State.discardReception
  split
  · simp
  · split <;> simp
  · rfl
  · rfl

theorem execStuckLine_viewLaw (stretch : Nat) (receiving : Bool) (law : s.ViewLaw)
    (h : execStuckLine stretch receiving s = .next t) : t.ViewLaw := by
  obtain rfl := Host.Outcome.next.inj h
  split
  · next taken =>
    have running := law.running_of_receives (by simp_all)
    have before : (s.discardReception receiving).ViewLaw := law.of_view running (by simp) (by simp) (by simp)
    have start : (s.discardReception receiving).start = s.start := congrArg (·.1) (s.discardReception_loader _)
    have running' : (s.discardReception receiving).isLoading = false := by rw [State.isLoading, start]; exact running
    exact State.ViewLaw.isolationStart (before.of_view running' rfl rfl rfl) running'
  · exact law

theorem execFaultRecovery_viewLaw (recessive : Nat) (law : s.ViewLaw) (h : execFaultRecovery recessive s = .next t) :
    t.ViewLaw := by
  obtain rfl := Host.Outcome.next.inj h
  split
  · next fault =>
    have running := law.running_of_ctl (by simp [fault])
    split
    · exact law
    · refine State.ViewLaw.of_face ?_ (State.raiseDue_face _ _)
      exact State.ViewLaw.isolationEnd (law.of_view running rfl rfl rfl) running
  all_goals exact law

/-! ### DRAIN and UNDRAIN -/

/-- A command that the port takes in its phase keeps the law if its effect does. -/
theorem State.ViewLaw.takeCommand (law : s.ViewLaw) (inPhase : Bool) (effect : State → State)
    (h : inPhase = true → (effect s).ViewLaw) : (s.takeCommand inPhase effect).ViewLaw := by
  rcases s.takeCommand_cases inPhase effect with ⟨-, phase, e⟩ | ⟨-, -, e⟩ | ⟨-, e⟩ | ⟨-, e⟩ <;> rw [e]
  · exact h phase
  · exact law.of_face rfl
  · exact law.of_face rfl
  · exact law

theorem State.running_of_isServe (serve : s.isServe = true) : s.isLoading = false := by
  unfold State.isServe at serve
  unfold State.isLoading
  split <;> simp_all

theorem execDrain_viewLaw (law : s.ViewLaw) (h : execDrain s = .next t) : t.ViewLaw := by
  obtain rfl := Host.Outcome.next.inj h
  refine law.takeCommand _ _ fun serve => ?_
  have running := State.running_of_isServe serve
  split
  · exact law.of_face rfl
  · split
    · exact law.of_face rfl
    · exact (law.setDraining running true).of_face (by simp)

theorem execUndrain_viewLaw (law : s.ViewLaw) (h : execUndrain s = .next t) : t.ViewLaw := by
  obtain rfl := Host.Outcome.next.inj h
  refine law.takeCommand _ _ fun phase => ?_
  have running : s.isLoading = false := by simpa using phase
  dsimp only
  split
  · exact (law.setDraining running false).of_face (by simp)
  · exact law.of_face rfl

/-! ### The monitors -/

theorem execLossTimerExpiry_viewLaw (p : Port) (law : s.ViewLaw) (h : execLossTimerExpiry p s = .next t) : t.ViewLaw := by
  obtain rfl := Host.Outcome.next.inj h
  split
  · next out _ => exact State.ViewLaw.handStatus (s := s.advanceTo out) (law.of_face rfl) p _
  all_goals exact law

theorem execReturnTimerExpiry_viewLaw (p : Port) (law : s.ViewLaw) (h : execReturnTimerExpiry p s = .next t) : t.ViewLaw := by
  obtain rfl := Host.Outcome.next.inj h
  split
  · next out _ => exact State.ViewLaw.handStatus (s := s.advanceTo out) (law.of_face rfl) p _
  all_goals exact law

theorem execDecayTick_viewLaw (law : s.ViewLaw) (h : execDecayTick s = .next t) : t.ViewLaw := by
  obtain rfl := Host.Outcome.next.inj h
  split
  · exact law
  · refine State.ViewLaw.foldl_decayPort ?_ _
    exact law.of_face (by simp)

/-! ### The Start-up Loader -/

theorem execResetNAsserted_viewLaw (law : s.ViewLaw) (h : execResetNAsserted s = .next t) : t.ViewLaw := by
  obtain rfl := Host.Outcome.next.inj h
  split
  · exact law
  · exact (State.coldReset_atRest _).viewLaw rfl

theorem execWarmNAsserted_viewLaw (law : s.ViewLaw) (h : execWarmNAsserted s = .next t) : t.ViewLaw := by
  obtain rfl := Host.Outcome.next.inj h
  dsimp only
  split
  · exact law
  · split
    · exact law.of_face rfl
    · exact (State.warmReset_atRest _).viewLaw rfl

/-- A reset line released: the part was at its reset values while it was asserted, and the load begins from them. -/
theorem State.ViewLaw.release (law : s.ViewLaw) (reset : s.ResetLaw) (held : s.pins.resetN = true ∨ s.pins.warmN = true)
    (x : Pins) (straps : CardId) : ((s.withPins x).beginLoad straps).ViewLaw := by
  obtain ⟨⟨view, stopped, silent⟩, loading⟩ := law.atRest_of_held reset held
  exact State.AtRestInLoading.beginLoad (s := s.withPins x) ⟨view, stopped, silent⟩ loading straps

theorem execResetNReleased_viewLaw (straps : CardId) (law : s.ViewLaw) (reset : s.ResetLaw)
    (h : execResetNReleased straps s = .next t) : t.ViewLaw := by
  obtain rfl := Host.Outcome.next.inj h
  split
  · next held => exact law.release reset (.inl held) _ straps
  · exact law

theorem execWarmNReleased_viewLaw (straps : CardId) (law : s.ViewLaw) (reset : s.ResetLaw)
    (h : execWarmNReleased straps s = .next t) : t.ViewLaw := by
  obtain rfl := Host.Outcome.next.inj h
  split
  · next held => exact law.release reset (.inr held) _ straps
  · exact law

theorem execChipSelectRelease_viewLaw (r : Deselect) (law : s.ViewLaw) (h : execChipSelectRelease r s = .next t) :
    t.ViewLaw := by
  obtain rfl := Host.Outcome.next.inj h
  have released :
      State.ViewLaw (if s.port.warmOrdered then s.releasePort.warmReset.beginLoad r.straps else s.releasePort) := by
    split
    · exact (State.warmReset_atRest _).beginLoad rfl _
    · exact law.of_face rfl
  dsimp only
  split
  · exact released.of_face rfl
  · exact released

theorem execLoadTimeout_viewLaw (law : s.ViewLaw) (h : execLoadTimeout s = .next t) : t.ViewLaw := by
  obtain rfl := Host.Outcome.next.inj h
  split
  · next limit phase =>
    obtain ⟨view, stopped, silent⟩ := law.loading (by rw [State.isLoading, phase])
    exact State.AtRestInLoading.viewLaw ⟨view, stopped, silent⟩ rfl
  all_goals exact law

theorem execEndOfLoading_viewLaw (rom : RomRead) (law : s.ViewLaw) (h : execEndOfLoading rom s = .next t) : t.ViewLaw := by
  obtain rfl := Host.Outcome.next.inj h
  split
  · next phase => exact law.finishLoading (by rw [State.isLoading, phase]) _ _
  · next phase => exact law.finishLoading (by rw [State.isLoading, phase]) _ _
  all_goals exact law

/-- The entry to SERVE moves the phase alone, as far as the laws of the view and the bus read the state (R173). -/
theorem State.enterServe_face (s : State) : s.enterServe.face = { s.face with start := { s.start with phase := .serve } } := by
  have serving : s.startServing.face = { s.face with start := { s.start with phase := .serve } } := rfl
  simp only [State.enterServe, State.placeSweep]
  split
  · simp [serving]
  · split <;> simp [serving]

theorem execListenDeadline_viewLaw (law : s.ViewLaw) (h : execListenDeadline s = .next t) : t.ViewLaw := by
  obtain rfl := Host.Outcome.next.inj h
  split
  · next deadline phase =>
    have running : s.isLoading = false := by rw [State.isLoading, phase]
    have face := (s.advanceTo deadline).enterServe_face
    have serving : (s.withStart { s.start with phase := .serve }).ViewLaw := by
      refine ⟨fun c => ?_, fun l => (by cases l), law.agree⟩
      have own := law.own c
      rw [running] at own
      exact own
    exact serving.of_face face
  all_goals exact law

/-! ### Every command -/

theorem exec_viewLaw (c : Instr) (reset : s.ResetLaw) (law : s.ViewLaw) (h : exec c s = .next t) : t.ViewLaw := by
  by_cases quiet : c.quiet = true
  · exact law.of_face (exec_quiet_face c quiet h)
  cases c with
  | lossTimerExpiry p => exact execLossTimerExpiry_viewLaw p law h
  | returnTimerExpiry p => exact execReturnTimerExpiry_viewLaw p law h
  | decayTick => exact execDecayTick_viewLaw law h
  | admissionDeadline u => exact execAdmissionDeadline_viewLaw u law h
  | presenceDeadline k => exact execPresenceDeadline_viewLaw k law h
  | frameReceived gap bits => exact execFrameReceived_viewLaw gap bits law h
  | frameStart gap edge =>
    rcases execFrameStart_view gap edge h with rfl | ⟨receives, view⟩
    · exact law
    · exact law.of_view (law.running_of_receives receives) view (execFrameStart_loader gap edge h)
        (execFrameStart_monitors gap edge h)
  | arbitrationLost =>
    rcases execArbitrationLost_view h with rfl | ⟨inFrame, view⟩
    · exact law
    · exact law.of_view (law.running_of_framer inFrame) view (execArbitrationLost_loader h) (execArbitrationLost_monitors h)
  | abort =>
    rcases execAbort_hears h with rfl | ⟨inFrame, hears⟩
    · exact law
    · exact law.of_hears (law.running_of_framer inFrame) hears (execAbort_loader h) (execAbort_monitors h)
  | frameComplete =>
    rcases execFrameComplete_view h with rfl | ⟨inFrame, view⟩
    · exact law
    · exact law.of_view (law.running_of_framer inFrame) view (execFrameComplete_loader h) (execFrameComplete_monitors h)
  | muteTimerExpiry =>
    rcases execMuteTimerExpiry_view h with rfl | ⟨begun, view⟩
    · exact law
    · exact law.of_view (law.running_of_ctl begun) view (execMuteTimerExpiry_loader h) (execMuteTimerExpiry_monitors h)
  | stuckLine stretch receiving => exact execStuckLine_viewLaw stretch receiving law h
  | faultRecovery recessive => exact execFaultRecovery_viewLaw recessive law h
  | drain => exact execDrain_viewLaw law h
  | undrain => exact execUndrain_viewLaw law h
  | chipSelectRelease r => exact execChipSelectRelease_viewLaw r law h
  | powerUp straps =>
    obtain rfl := Host.Outcome.next.inj h
    exact s.coldReset_atRest.beginLoad rfl straps
  | resetNAsserted => exact execResetNAsserted_viewLaw law h
  | resetNReleased straps => exact execResetNReleased_viewLaw straps law reset h
  | warmNAsserted => exact execWarmNAsserted_viewLaw law h
  | warmNReleased straps => exact execWarmNReleased_viewLaw straps law reset h
  | loadTimeout => exact execLoadTimeout_viewLaw law h
  | endOfLoading rom => exact execEndOfLoading_viewLaw rom law h
  | listenDeadline => exact execListenDeadline_viewLaw law h
  | _ => exact absurd rfl quiet

/-- A PRESENT card's uplink is in service where its port was heard UP and no recheck is asked (R31). -/
theorem presentStanding_inService_iff (recheck : Bool) (st : PortStatus) :
    presentStanding recheck st = .inService ↔ recheck = false ∧ st = .up := by
  cases st <;> cases recheck <;> simp [presentStanding]

/-- What the law says of an ADMITTED entry (R32, last paragraph). -/
theorem State.ViewLaw.inServiceNow (law : s.ViewLaw) (u : Uplink) (admitted : s.isAdmitted u = true) : s.inServiceNow u := by
  have inService : s.standing u = .inService := by
    have agree := law.agree u
    unfold State.isAdmitted at admitted
    cases h : s.view.entries[u].state with
    | admitted => rw [h] at agree; exact agree
    | settling d => rw [h] at admitted; cases admitted
    | dark r => rw [h] at admitted; cases admitted
  have up : ∀ x : PortStatus, x.standing = .inService → x = .up := fun x e => by cases x <;> first | rfl | cases e
  unfold State.standing at inService
  dsimp only at inService
  cases presence : s.view.cards[cardOf u].presence with
  | self =>
    rw [presence] at inService
    dsimp only at inService
    split at inService
    · cases inService
    · next undrained => exact .inl ⟨presence, by simpa using undrained, up _ inService⟩
  | unheard => rw [presence] at inService; cases inService
  | absent => rw [presence] at inService; cases inService
  | withdrawn d => rw [presence] at inService; cases inService
  | present d =>
    rw [presence] at inService
    obtain ⟨unmarked, heard⟩ := (presentStanding_inService_iff _ _).1 inService
    unfold CardRecord.heard at heard
    split at heard
    · next st e => exact .inr ⟨⟨d, presence⟩, unmarked, st, e, heard⟩
    · cases heard

/-- Settles O14: every command keeps the view law, as does 1 µs with none waiting, and an ADMITTED entry agrees with being in service. -/
theorem viewLawIsKept : Obligations.ViewLawIsKept := by
  refine ⟨fun s t reset law h => ?_, fun s u law admitted => law.inServiceNow u admitted⟩
  unfold step at h
  split at h
  · obtain rfl := Host.Outcome.next.inj h
    exact law.of_face (s.elapse_face 1)
  · next c rest _ => exact exec_viewLaw (s := s.withPending rest) c reset (law.of_face rfl) h

end Sys2Proof.Machine
end

section
/-! The layout of a frame on the line (R51, section 12.2). -/

namespace Sys2Proof.Machine

/-- The bits of two words, the first in front. -/
theorem bitsOf_append {m n : Nat} (a : BitVec m) (b : BitVec n) : bitsOf (a ++ b) = bitsOf a ++ bitsOf b := by
  apply List.ext_getElem?
  intro i
  by_cases h : i < m + n
  · rw [bitsOf_get _ i h, BitVec.getMsbD_append]
    by_cases k : i < m
    · rw [if_neg (by omega), List.getElem?_append_left (by rw [bitsOf_length]; exact k), bitsOf_get a i k]
    · rw [if_pos (by omega), List.getElem?_append_right (by rw [bitsOf_length]; omega), bitsOf_length,
        bitsOf_get b (i - m) (by omega)]
  · rw [List.getElem?_eq_none (by rw [bitsOf_length]; omega),
      List.getElem?_eq_none (by rw [List.length_append, bitsOf_length, bitsOf_length]; omega)]

/-- The bits of class, card id and status, which the CRC covers (R177). -/
def coveredBits (cls : FrameClass) (c : CardId) (st : Statuses) : List Bool :=
  bitsOf cls.code ++ bitsOf (BitVec.ofNat 4 c.val) ++ [7, 6, 5, 4, 3, 2, 1, 0].flatMap fun p : Port => bitsOf st[p].code

theorem bitsOf_statusWord (st : Statuses) :
    bitsOf (statusWord st) = [7, 6, 5, 4, 3, 2, 1, 0].flatMap fun p : Port => bitsOf st[p].code := by
  simp only [statusWord, bitsOf_append, List.flatMap_cons, List.flatMap_nil, List.append_nil, List.append_assoc]
  rfl

theorem bitsOf_covered (cls : FrameClass) (c : CardId) (st : Statuses) :
    bitsOf (cls.code ++ BitVec.ofFin (w := 4) c ++ statusWord st) = coveredBits cls c st := by
  have card : BitVec.ofFin (w := 4) c = BitVec.ofNat 4 c.val := BitVec.eq_of_toNat_eq (by simp)
  rw [bitsOf_append, bitsOf_append, bitsOf_statusWord, card]
  rfl

/-- A frame on the line: sync pattern, class, card id and status, CRC, end bits. -/
theorem lineBits_layout (cls : FrameClass) (c : CardId) (st : Statuses) : lineBits cls c st =
    [true, false, true, false, true, false, true, false] ++ coveredBits cls c st ++ bitsOf (crcOf (coveredBits cls c st)) ++
      [true, true] := by
  have sync : bitsOf syncPattern = [true, false, true, false, true, false, true, false] := by decide
  have ends : bitsOf (3#2) = [true, true] := by decide
  have covered := bitsOf_covered cls c st
  simp only [bitsOf_append] at covered
  simp only [lineBits, frameBits, frameCrc, bitsOf_append, sync, ends, ← covered, List.append_assoc]

/-- A sent frame agrees with the sync pattern as far as it goes (R51, R55). -/
theorem syncHolds_take_lineBits (cls : FrameClass) (c : CardId) (st : Statuses) (n : Nat) :
    syncHolds ((lineBits cls c st).take n) = true := by
  have sync : bitsOf syncPattern = [true, false, true, false, true, false, true, false] := by decide
  have front : (lineBits cls c st).take 8 = bitsOf syncPattern := by
    rw [lineBits_layout, sync]
    rfl
  rw [syncHolds, beq_iff_eq, List.length_take, lineBits_length, List.take_take, ← front, List.take_take]
  congr 1
  omega

/-- What lies past the sync field cannot disagree with it. -/
theorem syncHolds_append (taken more : List Bool) (past : 8 ≤ taken.length) : syncHolds (taken ++ more) = syncHolds taken := by
  have whole : ∀ n, 8 ≤ n → (bitsOf syncPattern).take n = bitsOf syncPattern := fun n h =>
    List.take_of_length_le (by rwa [bitsOf_length])
  have past' : 8 ≤ (taken ++ more).length := by rw [List.length_append]; omega
  simp only [syncHolds, List.take_append_of_le_length past, whole _ past, whole _ past']

end Sys2Proof.Machine
end

section
/-! The law of the Notice Bus Controller (R44, R46, R52, R58, R62, R64 to R66, R69): what it comes to of a receiving controller, and that
every bit of the line keeps it. -/

namespace Sys2Proof.Machine

variable {s t : State}

/-! ### What the law reads -/

/-- The law reads the face but for the entries, the draining flag and the statuses. -/
theorem State.BusLaw.congr (law : s.BusLaw) (cards : t.view.cards = s.view.cards) (isolated : t.view.isolated = s.view.isolated)
    (start : t.start = s.start) (ctl : t.bus.ctl = s.bus.ctl) (framer : t.bus.framer = s.bus.framer)
    (run : t.bus.abortRun = s.bus.abortRun) (mark : t.bus.clashMark = s.bus.clashMark) : t.BusLaw := by
  have loading : t.isLoading = s.isLoading := by simp only [State.isLoading, start]
  have serve : t.isServe = s.isServe := by simp only [State.isServe, start]
  have drives : t.drivesLine = s.drivesLine := by simp only [State.drivesLine, framer]
  obtain ⟨h1, h2, h3, h4, h5, h6, h7, h8, h9, h10, h11⟩ := law
  constructor <;> simp only [cards, isolated, loading, serve, drives, ctl, framer, run, mark] <;> assumption

theorem State.BusLaw.of_face (law : s.BusLaw) (h : t.face = s.face) : t.BusLaw := by
  obtain ⟨view, start, -, ctl, framer, run, mark⟩ := State.face_eq h
  exact law.congr (congrArg View.cards view) (congrArg View.isolated view) start ctl framer run mark

/-- An event of the entries keeps the law. -/
theorem State.BusLaw.of_same (law : s.BusLaw) (h : s.SameButEntries t) : t.BusLaw :=
  law.congr h.cards h.isolated h.start (congrArg Bus.ctl h.bus) (congrArg Bus.framer h.bus) (congrArg Bus.abortRun h.bus)
    (congrArg Bus.clashMark h.bus)

/-! ### A controller that receives -/

/-- What the law comes to, but for the framer, in OPEN, MUTED and CLASHED. -/
structure State.Receiving (s : State) : Prop where
  running : s.isLoading = false
  receives : s.bus.ctl.receives = true
  run : s.bus.abortRun < 16
  mark : s.bus.clashMark = true ↔ s.bus.ctl = .clashed
  connected : s.view.isolated = false
  deadlines : ∀ c : CardId, s.view.cards[c].presence.isSuspended = false

/-- What the law asks of the framer (R52, R53, R55, R56, R58, R61). -/
def Framer.Sound (ctl : BusState) (serve : Bool) : Framer → Prop
  | .off => ctl.receives = false
  | .gap _ => ctl.receives = true
  | .receiving _ taken => ctl.receives = true ∧ taken.length < 48 ∧ syncHolds taken = true
  | .sending _ _ sent => ctl = .open ∧ serve = true ∧ sent < 48

theorem State.BusLaw.receiving (law : s.BusLaw) (receives : s.bus.ctl.receives = true) : s.Receiving := by
  have connected : s.view.isolated = false := by
    by_contra k
    rw [law.isolated.1 (by simpa using k)] at receives
    cases receives
  refine ⟨?_, receives, law.run, ⟨fun k => ?_, law.clashed⟩, connected, fun c => ?_⟩
  · by_contra k
    rw [law.loading (by simpa using k)] at receives
    cases receives
  · rcases law.marked k with e | e
    · exact e
    · rw [e] at receives; cases receives
  · by_contra k
    rw [law.suspended c (by simpa using k)] at connected
    cases connected

theorem State.BusLaw.sound (law : s.BusLaw) : s.bus.framer.Sound s.bus.ctl s.isServe := by
  have on : s.bus.framer ≠ .off → s.bus.ctl.receives = true := fun k => by
    by_contra r
    exact k (law.framerOff.2 (by simpa using r))
  cases f : s.bus.framer with
  | off => exact law.framerOff.1 f
  | gap idle => exact on (by simp [f])
  | receiving aborted taken =>
    obtain ⟨short, sync⟩ := law.inFrame aborted taken f
    exact ⟨on (by simp [f]), short, sync⟩
  | sending cls st sent =>
    obtain ⟨opened, serve⟩ := law.sending (by simp [State.drivesLine, f])
    exact ⟨opened, serve, law.inOwn cls st sent f⟩

/-- A controller that is sending or receiving, or waits outside a frame, receives. -/
theorem State.BusLaw.receives_of_framer (law : s.BusLaw) (h : s.bus.framer ≠ .off) : s.bus.ctl.receives = true := by
  by_contra r
  exact h (law.framerOff.2 (by simpa using r))

theorem State.Receiving.busLaw (r : s.Receiving) (sound : s.bus.framer.Sound s.bus.ctl s.isServe) : s.BusLaw := by
  obtain ⟨running, receives, run, mark, connected, deadlines⟩ := r
  constructor
  case loading => intro l; rw [running] at l; cases l
  case framerOff =>
    constructor
    · intro off; rw [off] at sound; exact sound
    · intro k; rw [receives] at k; cases k
  case sending =>
    intro drives
    unfold State.drivesLine at drives
    split at drives
    · next e => rw [e] at sound; exact ⟨sound.1, sound.2.1⟩
    all_goals cases drives
  case run => exact run
  case clashed => exact mark.2
  case marked => exact fun k => .inl (mark.1 k)
  case isolated =>
    rw [connected]
    exact ⟨fun k => (by cases k), fun k => (by rw [k] at receives; cases receives)⟩
  case suspended => intro c k; rw [deadlines c] at k; cases k
  case running => intro k; rw [connected] at k; cases k
  case inFrame => intro aborted taken e; rw [e] at sound; exact sound.2
  case inOwn => intro cls st sent e; rw [e] at sound; exact sound.2.2

/-- Of a receiving controller all but the framer, and the abort run below 16, stays. -/
theorem State.Receiving.congr (r : s.Receiving) (view : t.view = s.view) (start : t.start = s.start)
    (ctl : t.bus.ctl = s.bus.ctl) (mark : t.bus.clashMark = s.bus.clashMark) (run : t.bus.abortRun < 16) : t.Receiving := by
  obtain ⟨running, receives, -, marked, connected, deadlines⟩ := r
  have loading : t.isLoading = false := by rw [State.isLoading, start]; exact running
  refine ⟨loading, ?_, run, ?_, ?_, ?_⟩
  · rw [ctl]; exact receives
  · rw [mark, ctl]; exact marked
  · rw [view]; exact connected
  · rw [view]; exact deadlines

theorem State.Receiving.of_face (r : s.Receiving) (h : t.face = s.face) : t.Receiving := by
  obtain ⟨view, start, -, ctl, -, run, mark⟩ := State.face_eq h
  exact r.congr view start ctl mark (run ▸ r.run)

theorem State.Receiving.setFramer (r : s.Receiving) (f : Framer) : (s.setFramer f).Receiving := r.congr rfl rfl rfl rfl r.run

/-! ### The events of the line -/

/-- A record of a card that has been heard has a running deadline. -/
theorem State.Receiving.of_card (r : s.Receiving) (c : CardId) (x : CardRecord) (due : x.presence.isSuspended = false)
    (same : State.SameButEntries { s with view := { s.view with cards := setAt s.view.cards c x } } t) : t.Receiving := by
  obtain ⟨running, receives, run, mark, connected, deadlines⟩ := r
  refine ⟨?_, ?_, ?_, ?_, same.isolated.trans connected, fun k => ?_⟩
  · rw [State.isLoading, same.start]; exact running
  · rw [same.bus]; exact receives
  · rw [same.bus]; exact run
  · rw [same.bus]; exact mark
  · rw [same.cards]
    dsimp only
    rw [setAt_get]
    split
    · exact due
    · exact deadlines k

theorem State.appendIf_same (b : Option JournalBody) (s : State) : s.SameButEntries (s.appendIf b) := by
  cases b with
  | none => exact .refl s
  | some x => exact s.append_same x

/-- A frame applied: the card's record, and then its entries and what they hand on (R41, R42). -/
theorem State.applyFrame_same (c : CardId) (cls : FrameClass) (st : Statuses) (s : State) :
    State.SameButEntries { s with view := { s.view with
        cards := setAt s.view.cards c ⟨if cls = .withdraw then .withdrawn (.due (s.clock.now + s.presenceWindow))
          else .present (.due (s.clock.now + s.presenceWindow)), some st, false⟩ } } (s.applyFrame c cls st) :=
  (State.appendIf_same _ _).trans (State.refindAll_same _ _)

theorem State.Receiving.applyFrame (r : s.Receiving) (c : CardId) (cls : FrameClass) (st : Statuses) :
    (s.applyFrame c cls st).Receiving :=
  r.of_card c _ (by split <;> rfl) (s.applyFrame_same c cls st)

/-- The entry to CLASHED (R66). -/
theorem State.Receiving.enterClashed (r : s.Receiving) : s.enterClashed.Receiving :=
  ⟨r.running, rfl, r.run, ⟨fun _ => rfl, fun _ => rfl⟩, r.connected, r.deadlines⟩

theorem State.Receiving.dispose (r : s.Receiving) (card : CardId) (cls : FrameClass) (st : Statuses) :
    (s.dispose card cls st).Receiving ∧ (s.dispose card cls st).bus.framer = s.bus.framer := by
  have counted : (s.withBus { s.bus with framesReceived := satInc s.bus.framesReceived }).Receiving := r.of_face rfl
  unfold State.dispose
  dsimp only
  split
  · split
    · exact ⟨counted.enterClashed, rfl⟩
    · exact ⟨counted, rfl⟩
  · exact ⟨counted.applyFrame _ _ _, by rw [(State.applyFrame_same _ _ _ _).bus]; rfl⟩

theorem State.Receiving.judge (r : s.Receiving) (aborted : Bool) (bits : BitVec 48) :
    (s.judge aborted bits).Receiving ∧ (s.judge aborted bits).bus.framer = s.bus.framer := by
  have uncounted : ∀ t : State, t.face = s.face → t.Receiving ∧ t.bus.framer = s.bus.framer := fun t h =>
    ⟨r.of_face h, (State.face_eq h).2.2.2.2.1⟩
  unfold State.judge
  split
  · exact uncounted _ (by simp)
  · split
    · exact uncounted _ (by simp)
    · exact r.dispose _ _ _

/-- Whatever has been taken, the law holds after it (R52, R55, R56). -/
theorem State.Receiving.hear (r : s.Receiving) (aborted : Bool) (taken : List Bool) : (s.hear aborted taken).BusLaw := by
  have gap : (s.setFramer (.gap 0)).Receiving := r.setFramer _
  rcases s.hear_cases aborted taken with ⟨-, e⟩ | ⟨sync, short, e⟩ | ⟨-, -, e⟩ <;> rw [e]
  · exact (gap.busLaw r.receives).of_face (by simp)
  · exact (r.setFramer _).busLaw ⟨r.receives, short, sync⟩
  · obtain ⟨judged, framer⟩ := gap.judge aborted (frameWord (taken.take 48))
    refine judged.busLaw ?_
    rw [framer]
    exact judged.receives

/-- Outside a frame (R53). -/
theorem State.Receiving.gap (r : s.Receiving) (idle : Nat) : (s.setFramer (.gap idle)).BusLaw :=
  (r.setFramer _).busLaw r.receives

theorem State.mayStart_open (h : s.mayStart = true) : s.bus.ctl = .open ∧ s.isServe = true := by
  simp only [State.mayStart, Bool.and_eq_true, beq_iff_eq] at h
  exact ⟨h.1.1.1, h.1.1.2⟩

theorem State.Receiving.startFrame (r : s.Receiving) (may : s.mayStart = true) : s.startFrame.BusLaw := by
  obtain ⟨opened, serve⟩ := State.mayStart_open may
  have started : s.startFrame.Receiving := r.congr rfl rfl rfl rfl r.run
  exact started.busLaw ⟨opened, serve, by decide⟩

theorem State.Receiving.startEdge (r : s.Receiving) (idle : Nat) : (s.startEdge idle).BusLaw := by
  rcases s.startEdge_cases idle with ⟨-, e⟩ | ⟨-, may, e⟩ | ⟨-, -, e⟩ <;> rw [e]
  · exact r.gap 0
  · exact r.startFrame may
  · exact (r.setFramer _).busLaw ⟨r.receives, by decide, by decide⟩

theorem State.Receiving.completeFrame (r : s.Receiving) (cls : FrameClass) : (s.completeFrame cls).BusLaw := by
  have completed : (s.completeFrame cls).Receiving := r.congr rfl rfl rfl rfl (Nat.zero_lt_succ 15)
  exact completed.busLaw r.receives

/-- Arbitration is lost within the arbitration field, past the sync field (R59). -/
theorem State.Receiving.loseArbitration (r : s.Receiving) (cls : FrameClass) (c : CardId) (st : Statuses) (n : Nat) (b : Bool)
    (field : inArbitration n = true) :
    (s.loseArbitration cls ((lineBits cls c st).take n ++ [b])).BusLaw := by
  have place : 8 ≤ n ∧ n < 14 := by simpa [inArbitration] using field
  have len : ((lineBits cls c st).take n).length = n := by rw [List.length_take, lineBits_length]; omega
  have lost : (s.loseArbitration cls ((lineBits cls c st).take n ++ [b])).Receiving := r.congr rfl rfl rfl rfl r.run
  refine lost.busLaw ⟨r.receives, ?_, ?_⟩
  · rw [List.length_append, len, List.length_singleton]
    omega
  · rw [syncHolds_append _ _ (by omega)]
    exact syncHolds_take_lineBits cls c st n

/-- An abort counted in OPEN; at the 16th the controller is muted and the run cleared (R62). -/
theorem State.Receiving.countAbort (r : s.Receiving) (opened : s.bus.ctl = .open) (cls : FrameClass) :
    (s.countAbort cls).Receiving := by
  unfold State.countAbort
  dsimp only
  split
  · refine ⟨r.running, rfl, Nat.zero_lt_succ 15, ⟨fun k => ?_, fun k => (by cases k)⟩, r.connected, r.deadlines⟩
    have clashed := r.mark.1 k
    rw [opened] at clashed
    cases clashed
  · next few => exact r.congr rfl rfl rfl rfl (Nat.lt_of_not_le few)

theorem State.Receiving.abortFrame (r : s.Receiving) (opened : s.bus.ctl = .open) (cls : FrameClass) (taken : List Bool) :
    (s.abortFrame cls taken).BusLaw := (r.countAbort opened cls).hear true taken

/-- One bit of the line keeps the law. -/
theorem State.BusLaw.takeBit (law : s.BusLaw) (b : Bool) : (s.takeBit b).BusLaw := by
  have sound := law.sound
  unfold State.takeBit
  split
  · exact law
  · next idle f =>
    rw [f] at sound
    have r := law.receiving sound
    split
    · exact r.gap _
    · exact r.startEdge idle
  · next aborted taken f =>
    rw [f] at sound
    exact (law.receiving sound.1).hear aborted _
  · next cls st sent f =>
    rw [f] at sound
    obtain ⟨opened, serve, short⟩ := sound
    have r := law.receiving (by rw [opened]; rfl)
    have own : (lineBits cls s.start.cardId st)[sent]? = some (lineBits cls s.start.cardId st)[sent] :=
      List.getElem?_eq_getElem (by rw [lineBits_length]; exact short)
    rcases s.readBack_cases cls st sent _ b own with ⟨-, more, e⟩ | ⟨-, -, e⟩ | ⟨-, field, e⟩ | ⟨-, -, e⟩ <;> rw [e]
    · exact (r.setFramer _).busLaw ⟨opened, serve, more⟩
    · exact r.completeFrame cls
    · exact r.loseArbitration cls _ st sent b (by simp [inArbitration, field.1, field.2.1])
    · exact r.abortFrame opened cls _

theorem State.BusLaw.takeBits (law : s.BusLaw) (bits : List Bool) : (s.takeBits bits).BusLaw := by
  induction bits generalizing s with
  | nil => exact law
  | cons b bits ih => exact ih (law.takeBit b)

end Sys2Proof.Machine
end

section
/-! The bus law over every command. -/

namespace Sys2Proof.Machine

variable {s t : State}

/-! ### The commands of the bus -/

theorem execFrameReceived_busLaw (gap : Nat) (bits : List Bool) (law : s.BusLaw)
    (h : execFrameReceived gap bits s = .next t) : t.BusLaw := by
  obtain rfl := Host.Outcome.next.inj h
  split
  · next receives =>
    split
    · exact ((law.receiving receives).startEdge _).takeBits bits
    · exact law.takeBits bits
    · exact law.takeBits bits
    · exact law
  · exact law

theorem execFrameStart_busLaw (gap : Nat) (edge : Bool) (law : s.BusLaw) (h : execFrameStart gap edge s = .next t) :
    t.BusLaw := by
  obtain rfl := Host.Outcome.next.inj h
  split
  · next receives =>
    have r := law.receiving receives
    split
    · split
      · exact r.startEdge _
      · split
        · next may => exact r.startFrame (Bool.and_eq_true_iff.1 may).1
        · exact r.gap _
    all_goals exact law
  · exact law

/-- The first place at which arbitration can be lost lies in the arbitration field (R59). -/
theorem inArbitration_of_lossPlace {own : List Bool} {sent n : Nat} (h : lossPlace own sent = some n) :
    inArbitration n = true := by
  have found := List.find?_some h
  simp only [Bool.and_eq_true] at found
  exact found.1.2

/-- A frame of this chip is on the line in OPEN only (R58). -/
theorem State.BusLaw.receiving_of_sending (law : s.BusLaw) {cls : FrameClass} {st : Statuses} {sent : Nat}
    (h : s.bus.framer = .sending cls st sent) : s.Receiving ∧ s.bus.ctl = .open := by
  have opened := (law.sending (by simp [State.drivesLine, h])).1
  exact ⟨law.receiving (by rw [opened]; rfl), opened⟩

theorem execArbitrationLost_busLaw (law : s.BusLaw) (h : execArbitrationLost s = .next t) : t.BusLaw := by
  obtain rfl := Host.Outcome.next.inj h
  split
  · next cls st sent sending =>
    obtain ⟨r, -⟩ := law.receiving_of_sending sending
    dsimp only
    split
    · next n place => exact r.loseArbitration cls _ st n false (inArbitration_of_lossPlace place)
    · exact law
  all_goals exact law

theorem execAbort_busLaw (law : s.BusLaw) (h : execAbort s = .next t) : t.BusLaw := by
  obtain rfl := Host.Outcome.next.inj h
  split
  · next sending =>
    obtain ⟨r, opened⟩ := law.receiving_of_sending sending
    dsimp only
    split
    · exact r.abortFrame opened _ _
    · split
      · exact r.abortFrame opened _ _
      · exact law
  all_goals exact law

theorem execFrameComplete_busLaw (law : s.BusLaw) (h : execFrameComplete s = .next t) : t.BusLaw := by
  obtain rfl := Host.Outcome.next.inj h
  split
  · next cls st sent sending => exact (law.receiving_of_sending sending).1.completeFrame cls
  all_goals exact law

/-- From MUTED to OPEN; the chip was not sending (R58, R63). -/
theorem execMuteTimerExpiry_busLaw (law : s.BusLaw) (h : execMuteTimerExpiry s = .next t) : t.BusLaw := by
  obtain rfl := Host.Outcome.next.inj h
  split
  · next out muted =>
    have r := law.receiving (by rw [muted]; rfl)
    have sound := law.sound
    refine State.Receiving.busLaw ⟨r.running, rfl, r.run, ⟨fun k => ?_, fun k => (by cases k)⟩, r.connected, r.deadlines⟩ ?_
    · have clashed := r.mark.1 k
      rw [muted] at clashed
      cases clashed
    · change s.bus.framer.Sound .open s.isServe
      rw [muted] at sound
      cases f : s.bus.framer with
      | off => rw [f] at sound; cases sound
      | gap idle => rfl
      | receiving aborted taken => rw [f] at sound; exact ⟨rfl, sound.2⟩
      | sending cls st sent => rw [f] at sound; cases sound.1
  all_goals exact law

/-! ### FAULT -/

theorem Presence.suspend_dueTime (x : Presence) : x.suspend.dueTime = none := by cases x <;> rfl

theorem Presence.resume_isSuspended (time : Nat) (x : Presence) : (x.resume time).isSuspended = false := by
  rcases x with _ | _ | ⟨_ | _⟩ | ⟨_ | _⟩ | _ <;> rfl

/-- The report of isolation moves entries and hands on what they do, after marking the cards (R44, R45). -/
theorem State.isolationStart_same (s : State) : s.isolationMarked.SameButEntries s.isolationStart := by
  rw [State.isolationStart_eq]
  split
  · exact State.refindAll_same _ _
  · exact .refl _

/-- The law of a controller in FAULT (R44, R52, R64). -/
theorem State.BusLaw.of_fault (running : s.isLoading = false) (ctl : s.bus.ctl = .fault) (framer : s.bus.framer = .off)
    (run : s.bus.abortRun = 0) (isolated : s.view.isolated = true)
    (deadlines : ∀ c : CardId, s.view.cards[c].presence.dueTime = none) : s.BusLaw := by
  constructor
  case loading => intro l; rw [running] at l; cases l
  case framerOff => rw [framer, ctl]; exact ⟨fun _ => rfl, fun _ => rfl⟩
  case sending => intro drives; simp [State.drivesLine, framer] at drives
  case run => rw [run]; exact Nat.zero_lt_succ 15
  case clashed => intro k; rw [ctl] at k; cases k
  case marked => exact fun _ => .inr ctl
  case isolated => exact ⟨fun _ => ctl, fun _ => isolated⟩
  case suspended => exact fun _ _ => isolated
  case running => exact fun _ => deadlines
  case inFrame => intro _ _ k; rw [framer] at k; cases k
  case inOwn => intro _ _ _ k; rw [framer] at k; cases k

theorem execStuckLine_busLaw (stretch : Nat) (receiving : Bool) (law : s.BusLaw)
    (h : execStuckLine stretch receiving s = .next t) : t.BusLaw := by
  obtain rfl := Host.Outcome.next.inj h
  split
  · next taken =>
    have running := (law.receiving (by simp_all)).running
    have start : (s.discardReception receiving).start = s.start := congrArg (·.1) (s.discardReception_loader _)
    have running' : (s.discardReception receiving).isLoading = false := by rw [State.isLoading, start]; exact running
    unfold State.enterFault
    dsimp only
    generalize s.discardReception receiving = r at running'
    refine State.BusLaw.of_same ?_ (State.isolationStart_same _)
    refine .of_fault (by rw [State.isLoading, (State.isolationMarked_frame _).1]; exact running') rfl rfl rfl rfl fun c => ?_
    rw [State.isolationMarked_card]
    exact Presence.suspend_dueTime _
  · exact law

/-- Once the end of isolation is reported no deadline is suspended (R46). -/
theorem State.isolationEnd_receiving (running : s.isLoading = false) (receives : s.bus.ctl.receives = true)
    (run : s.bus.abortRun < 16) (mark : s.bus.clashMark = true ↔ s.bus.ctl = .clashed) : s.isolationEnd.Receiving := by
  obtain ⟨start, bus, isolated⟩ : s.isolationEnd.start = s.start ∧ s.isolationEnd.bus = s.bus ∧
      s.isolationEnd.view.isolated = false := by
    simp only [State.isolationEnd, State.withView, true_and]
  refine ⟨?_, ?_, ?_, ?_, isolated, fun c => ?_⟩
  · rw [State.isLoading, start]; exact running
  · rw [bus]; exact receives
  · rw [bus]; exact run
  · rw [bus]; exact mark
  · rw [State.isolationEnd_card]
    exact Presence.resume_isSuspended _ _

/-- The end of FAULT: OPEN or CLASHED by the clash mark, with no deadline left suspended (R46, R65). -/
theorem execFaultRecovery_busLaw (recessive : Nat) (law : s.BusLaw) (h : execFaultRecovery recessive s = .next t) :
    t.BusLaw := by
  obtain rfl := Host.Outcome.next.inj h
  split
  · next fault =>
    have running : s.isLoading = false := by
      by_contra l
      have stopped := law.loading (by simpa using l)
      rw [fault] at stopped
      cases stopped
    split
    · exact law
    · refine State.BusLaw.of_face ?_ (State.raiseDue_face _ _)
      have receives : (if s.bus.clashMark = true then BusState.clashed else BusState.open).receives = true := by
        split <;> rfl
      have mark : s.bus.clashMark = true ↔
          (if s.bus.clashMark = true then BusState.clashed else BusState.open) = .clashed := by
        cases s.bus.clashMark <;> simp
      refine State.Receiving.busLaw ?_ receives
      exact State.isolationEnd_receiving running receives law.run mark
  all_goals exact law

/-! ### The monitors and the view -/

theorem State.BusLaw.handStatus (law : s.BusLaw) (p : Port) (old : PortStatus) : (s.handStatus p old).BusLaw := by
  rcases s.handStatus_cases p old with ⟨-, e⟩ | ⟨r, face, e⟩ <;> rw [e]
  · exact law
  · exact (law.of_face face).of_same (State.refindAll_same _ _)

theorem State.BusLaw.setMonitor (law : s.BusLaw) (p : Port) (m : Monitor) : (s.setMonitor p m).BusLaw :=
  law.congr rfl rfl rfl rfl rfl rfl rfl

theorem State.BusLaw.foldl_decayPort (law : s.BusLaw) (ps : List Port) : (ps.foldl State.decayPort s).BusLaw := by
  induction ps generalizing s with
  | nil => exact law
  | cons p ps ih =>
    refine ih ?_
    rw [State.decayPort_eq]
    exact (law.setMonitor p _).handStatus p _

theorem execLossTimerExpiry_busLaw (p : Port) (law : s.BusLaw) (h : execLossTimerExpiry p s = .next t) : t.BusLaw := by
  obtain rfl := Host.Outcome.next.inj h
  split
  · next out _ => exact (State.BusLaw.setMonitor (s := s.advanceTo out) (law.of_face rfl) p _).handStatus p _
  all_goals exact law

theorem execReturnTimerExpiry_busLaw (p : Port) (law : s.BusLaw) (h : execReturnTimerExpiry p s = .next t) : t.BusLaw := by
  obtain rfl := Host.Outcome.next.inj h
  split
  · next out _ => exact (State.BusLaw.setMonitor (s := s.advanceTo out) (law.of_face rfl) p _).handStatus p _
  all_goals exact law

theorem execDecayTick_busLaw (law : s.BusLaw) (h : execDecayTick s = .next t) : t.BusLaw := by
  obtain rfl := Host.Outcome.next.inj h
  split
  · exact law
  · refine State.BusLaw.foldl_decayPort ?_ _
    exact law.of_face (by simp)

theorem execAdmissionDeadline_busLaw (u : Uplink) (law : s.BusLaw) (h : execAdmissionDeadline u s = .next t) : t.BusLaw := by
  obtain rfl := Host.Outcome.next.inj h
  split
  · next deadline _ => exact State.BusLaw.of_same (s := s.advanceTo deadline) (law.of_face rfl) (State.moveEntry_same _ _ _)
  all_goals exact law

/-- A card becomes ABSENT: its record, and then its entries and what they hand on (R43). -/
theorem State.loseCard_same (c : CardId) (s : State) :
    State.SameButEntries { s with view := { s.view with cards := setAt s.view.cards c ⟨.absent, s.view.cards[c].lastHeard, false⟩ } }
      (s.loseCard c) :=
  (State.append_same (.cardLost c) (s.setCard c _)).trans (State.refindAll_same _ _)

/-- An ABSENT card has no deadline to be suspended or to run. -/
theorem State.BusLaw.loseCard (law : s.BusLaw) (c : CardId) : (s.loseCard c).BusLaw := by
  refine State.BusLaw.of_same ?_ (s.loseCard_same c)
  obtain ⟨loading, framerOff, sending, run, clashed, marked, isolated, suspended, running, inFrame, inOwn⟩ := law
  refine ⟨loading, framerOff, sending, run, clashed, marked, isolated, fun k => ?_, fun i k => ?_, inFrame, inOwn⟩
  · dsimp only
    rw [setAt_get]
    split
    · exact fun h => (by cases h)
    · exact suspended k
  · dsimp only
    rw [setAt_get]
    split
    · rfl
    · exact running i k

theorem execPresenceDeadline_busLaw (c : CardId) (law : s.BusLaw) (h : execPresenceDeadline c s = .next t) : t.BusLaw := by
  obtain rfl := Host.Outcome.next.inj h
  split
  · next time _ => exact State.BusLaw.loseCard (s := s.advanceTo time) (law.of_face rfl) c
  · exact law

/-! ### DRAIN and UNDRAIN -/

theorem State.BusLaw.setDraining (law : s.BusLaw) (b : Bool) : (s.setDraining b).BusLaw := by
  refine State.BusLaw.of_same ?_ (State.refindAll_same _ _)
  exact law.congr rfl rfl rfl rfl rfl rfl rfl

/-- A command that comes in on the port keeps the law if its effect does. -/
theorem State.BusLaw.takeCommand (law : s.BusLaw) (inPhase : Bool) (effect : State → State) (h : (effect s).BusLaw) :
    (s.takeCommand inPhase effect).BusLaw := by
  rcases s.takeCommand_cases inPhase effect with ⟨-, -, e⟩ | ⟨-, -, e⟩ | ⟨-, e⟩ | ⟨-, e⟩ <;> rw [e]
  · exact h
  · exact law.of_face rfl
  · exact law.of_face rfl
  · exact law

theorem execDrain_busLaw (law : s.BusLaw) (h : execDrain s = .next t) : t.BusLaw := by
  obtain rfl := Host.Outcome.next.inj h
  refine law.takeCommand _ _ ?_
  split
  · exact law.of_face rfl
  · split
    · exact law.of_face rfl
    · exact (law.setDraining true).of_face (by simp)

theorem execUndrain_busLaw (law : s.BusLaw) (h : execUndrain s = .next t) : t.BusLaw := by
  obtain rfl := Host.Outcome.next.inj h
  refine law.takeCommand _ _ ?_
  dsimp only
  split
  · exact (law.setDraining false).of_face (by simp)
  · exact law.of_face rfl

/-! ### The Start-up Loader -/

/-- A controller at its reset values (R47, R69). -/
theorem State.BusLaw.of_reset (rest : s.AtRestInLoading) (run : s.bus.abortRun = 0) (mark : s.bus.clashMark = false) :
    s.BusLaw := by
  obtain ⟨view, ctl, framer⟩ := rest
  have card : ∀ c : CardId, s.view.cards[c] = ⟨.unheard, none, false⟩ := fun c => by simp [view, View.reset]
  constructor
  case loading => exact fun _ => ctl
  case framerOff => rw [framer, ctl]; exact ⟨fun _ => rfl, fun _ => rfl⟩
  case sending => intro drives; simp [State.drivesLine, framer] at drives
  case run => rw [run]; exact Nat.zero_lt_succ 15
  case clashed => intro k; rw [ctl] at k; cases k
  case marked => intro k; rw [mark] at k; cases k
  case isolated => rw [view, ctl]; exact ⟨fun k => (by cases k), fun k => (by cases k)⟩
  case suspended => intro c k; rw [card] at k; cases k
  case running => intro k; rw [view] at k; cases k
  case inFrame => intro _ _ k; rw [framer] at k; cases k
  case inOwn => intro _ _ _ k; rw [framer] at k; cases k

/-- The loader's phase, kind and straps move while the controller is STOPPED (R69). -/
theorem State.BusLaw.withStart (law : s.BusLaw) (stopped : s.bus.ctl = .stopped) (x : Start) : (s.withStart x).BusLaw := by
  obtain ⟨-, framerOff, sending, run, clashed, marked, isolated, suspended, running, inFrame, inOwn⟩ := law
  refine ⟨fun _ => stopped, framerOff, fun drives => ?_, run, clashed, marked, isolated, suspended, running, inFrame, inOwn⟩
  have opened := (sending drives).1
  rw [stopped] at opened
  cases opened

theorem State.BusLaw.beginLoad (law : s.BusLaw) (stopped : s.bus.ctl = .stopped) (straps : CardId) :
    (s.beginLoad straps).BusLaw := by
  unfold State.beginLoad
  split
  · exact law
  · exact law.withStart stopped _

theorem State.coldReset_busLaw (s : State) : s.coldReset.BusLaw := .of_reset s.coldReset_atRest rfl rfl

theorem State.warmReset_busLaw (s : State) : s.warmReset.BusLaw := .of_reset s.warmReset_atRest rfl rfl

/-- A reset line released: the part was in LOADING while it was asserted (R168). -/
theorem State.BusLaw.release (law : s.BusLaw) (reset : s.ResetLaw) (held : s.pins.resetN = true ∨ s.pins.warmN = true)
    (x : Pins) (straps : CardId) : ((s.withPins x).beginLoad straps).BusLaw := by
  have stopped : s.bus.ctl = .stopped := law.loading (by rw [State.isLoading, reset held])
  exact State.BusLaw.beginLoad (s := s.withPins x) (law.of_face rfl) stopped straps

theorem execResetNAsserted_busLaw (law : s.BusLaw) (h : execResetNAsserted s = .next t) : t.BusLaw := by
  obtain rfl := Host.Outcome.next.inj h
  split
  · exact law
  · exact State.coldReset_busLaw _

theorem execResetNReleased_busLaw (straps : CardId) (law : s.BusLaw) (reset : s.ResetLaw)
    (h : execResetNReleased straps s = .next t) : t.BusLaw := by
  obtain rfl := Host.Outcome.next.inj h
  split
  · next held => exact law.release reset (.inl held) _ straps
  · exact law

theorem execWarmNAsserted_busLaw (law : s.BusLaw) (h : execWarmNAsserted s = .next t) : t.BusLaw := by
  obtain rfl := Host.Outcome.next.inj h
  dsimp only
  split
  · exact law
  · split
    · exact law.of_face rfl
    · exact State.warmReset_busLaw _

theorem execWarmNReleased_busLaw (straps : CardId) (law : s.BusLaw) (reset : s.ResetLaw)
    (h : execWarmNReleased straps s = .next t) : t.BusLaw := by
  obtain rfl := Host.Outcome.next.inj h
  split
  · next held => exact law.release reset (.inr held) _ straps
  · exact law

theorem execChipSelectRelease_busLaw (r : Deselect) (law : s.BusLaw) (h : execChipSelectRelease r s = .next t) :
    t.BusLaw := by
  obtain rfl := Host.Outcome.next.inj h
  have released :
      State.BusLaw (if s.port.warmOrdered then s.releasePort.warmReset.beginLoad r.straps else s.releasePort) := by
    split
    · exact (State.warmReset_busLaw _).beginLoad rfl _
    · exact law.of_face rfl
  dsimp only
  split
  · exact released.of_face rfl
  · exact released

theorem execLoadTimeout_busLaw (law : s.BusLaw) (h : execLoadTimeout s = .next t) : t.BusLaw := by
  obtain rfl := Host.Outcome.next.inj h
  split
  · next limit phase =>
    have stopped := law.loading (by rw [State.isLoading, phase])
    exact State.BusLaw.withStart (s := s.advanceTo limit) (law.of_face rfl) stopped _
  all_goals exact law

/-- At the end of loading the controller is OPEN, outside a frame (R69). -/
theorem State.BusLaw.finishLoading (law : s.BusLaw) (loading : s.isLoading = true) (c : Settings)
    (noted : Option JournalBody) : (s.finishLoading c noted).BusLaw := by
  have stopped := law.loading loading
  have connected : s.view.isolated = false := by
    by_contra k
    have fault := law.isolated.1 (by simpa using k)
    rw [stopped] at fault
    cases fault
  have card := s.finishLoading_card c noted
  have eq := s.finishLoading_eq c noted
  generalize s.finishLoading c noted = t at *
  have bus : t.bus = { s.bus with ctl := .open, framer := .gap 0 } := by rw [eq]
  have isolated : t.view.isolated = s.view.isolated := by rw [eq]
  have receiving : t.Receiving := by
    refine ⟨by rw [eq]; rfl, by rw [bus]; rfl, by rw [bus]; exact law.run, ?_, isolated.trans connected, fun k => ?_⟩
    · rw [bus]
      refine ⟨fun k => ?_, fun k => (by cases k)⟩
      rcases law.marked k with e | e <;> rw [stopped] at e <;> cases e
    · rw [card]
      split
      · rfl
      · by_contra suspended
        rw [law.suspended k (by simpa using suspended)] at connected
        cases connected
  refine receiving.busLaw ?_
  rw [bus]
  rfl

theorem execEndOfLoading_busLaw (rom : RomRead) (law : s.BusLaw) (h : execEndOfLoading rom s = .next t) : t.BusLaw := by
  obtain rfl := Host.Outcome.next.inj h
  split
  · next phase => exact law.finishLoading (by rw [State.isLoading, phase]) _ _
  · next phase => exact law.finishLoading (by rw [State.isLoading, phase]) _ _
  all_goals exact law

theorem execListenDeadline_busLaw (law : s.BusLaw) (h : execListenDeadline s = .next t) : t.BusLaw := by
  obtain rfl := Host.Outcome.next.inj h
  split
  · next deadline phase =>
    have serving : (s.withStart { s.start with phase := .serve }).BusLaw := by
      obtain ⟨-, framerOff, sending, run, clashed, marked, isolated, suspended, running, inFrame, inOwn⟩ := law
      exact ⟨fun l => (by cases l), framerOff, fun drives => ⟨(sending drives).1, rfl⟩, run, clashed, marked, isolated,
        suspended, running, inFrame, inOwn⟩
    exact serving.of_face (s.advanceTo deadline).enterServe_face
  all_goals exact law

/-! ### Every command -/

theorem exec_busLaw (c : Instr) (reset : s.ResetLaw) (law : s.BusLaw) (h : exec c s = .next t) : t.BusLaw := by
  by_cases quiet : c.quiet = true
  · exact law.of_face (exec_quiet_face c quiet h)
  cases c with
  | lossTimerExpiry p => exact execLossTimerExpiry_busLaw p law h
  | returnTimerExpiry p => exact execReturnTimerExpiry_busLaw p law h
  | decayTick => exact execDecayTick_busLaw law h
  | admissionDeadline u => exact execAdmissionDeadline_busLaw u law h
  | presenceDeadline k => exact execPresenceDeadline_busLaw k law h
  | frameReceived gap bits => exact execFrameReceived_busLaw gap bits law h
  | frameStart gap edge => exact execFrameStart_busLaw gap edge law h
  | arbitrationLost => exact execArbitrationLost_busLaw law h
  | abort => exact execAbort_busLaw law h
  | frameComplete => exact execFrameComplete_busLaw law h
  | muteTimerExpiry => exact execMuteTimerExpiry_busLaw law h
  | stuckLine stretch receiving => exact execStuckLine_busLaw stretch receiving law h
  | faultRecovery recessive => exact execFaultRecovery_busLaw recessive law h
  | drain => exact execDrain_busLaw law h
  | undrain => exact execUndrain_busLaw law h
  | chipSelectRelease r => exact execChipSelectRelease_busLaw r law h
  | powerUp straps =>
    obtain rfl := Host.Outcome.next.inj h
    exact s.coldReset_busLaw.beginLoad rfl straps
  | resetNAsserted => exact execResetNAsserted_busLaw law h
  | resetNReleased straps => exact execResetNReleased_busLaw straps law reset h
  | warmNAsserted => exact execWarmNAsserted_busLaw law h
  | warmNReleased straps => exact execWarmNReleased_busLaw straps law reset h
  | loadTimeout => exact execLoadTimeout_busLaw law h
  | endOfLoading rom => exact execEndOfLoading_busLaw rom law h
  | listenDeadline => exact execListenDeadline_busLaw law h
  | _ => exact absurd rfl quiet

/-- Settles O24: every command keeps the bus law, as does 1 µs with none waiting. -/
theorem busLawIsKept : Obligations.BusLawIsKept := by
  intro s t reset law h
  unfold step at h
  split at h
  · obtain rfl := Host.Outcome.next.inj h
    exact law.of_face (s.elapse_face 1)
  · next c rest _ => exact exec_busLaw (s := s.withPending rest) c reset (law.of_face rfl) h

end Sys2Proof.Machine
end

section
/-! What a command that performs no reset can make of an entry, and from it the law of the first-admission marks (R32 to R34). -/

namespace Sys2Proof

/-- The commands that can perform a reset (R168). -/
def Instr.canReset : Instr → Bool
  | .powerUp _ | .resetNAsserted | .warmNAsserted | .chipSelectRelease _ => true
  | _ => false

namespace Machine

variable {s t r : State}

/-! ### The moves of an entry -/

/-- What the commands but for the resets make of an entry, in one move or several: what a standing makes of it, and ADMITTED of SETTLING. -/
inductive Entry.Moves : Entry → Entry → Prop
  | kept (e : Entry) : Moves e e
  | found (now delay : Nat) (st : Standing) (e : Entry) : Moves e (e.applyStanding now delay st)
  | admitted (deadline : Nat) (e : Entry) (h : e.state = .settling deadline) : Moves e { e with state := .admitted }
  | trans (a b c : Entry) (h : Moves a b) (k : Moves b c) : Moves a c

/-- The mark of an entry is clear in ADMITTED and SETTLING (R32, R33). -/
def Entry.MarkHolds (e : Entry) : Prop := (∃ r, e.state = .dark r) ∨ e.firstMark = false

/-- No standing sets a mark again. -/
theorem Entry.applyStanding_clear (now delay : Nat) (st : Standing) (e : Entry) (clear : e.firstMark = false) :
    (e.applyStanding now delay st).firstMark = false := by
  cases st with
  | dark r => exact clear
  | inService =>
    unfold Entry.applyStanding
    dsimp only
    split
    · exact clear
    · exact clear
    · split
      · rfl
      · split <;> exact clear

/-- A standing brings an entry into service with its mark spent (R32). -/
theorem Entry.applyStanding_markHolds (now delay : Nat) (st : Standing) (e : Entry) (h : e.MarkHolds) :
    (e.applyStanding now delay st).MarkHolds := by
  cases st with
  | dark r => exact .inl ⟨r, rfl⟩
  | inService =>
    rcases h with ⟨r, dark⟩ | clear
    · refine .inr ?_
      unfold Entry.applyStanding
      simp only [dark]
      split
      · rfl
      · next unmarked =>
        have clear : e.firstMark = false := by simpa using unmarked
        split <;> exact clear
    · exact .inr (Entry.applyStanding_clear now delay _ e clear)

theorem Entry.Moves.clear {e f : Entry} (h : Entry.Moves e f) : e.firstMark = false → f.firstMark = false := by
  induction h with
  | kept => exact id
  | found now delay st e => exact Entry.applyStanding_clear now delay st e
  | admitted => exact id
  | trans a b c _ _ first second => exact second ∘ first

theorem Entry.Moves.markHolds {e f : Entry} (h : Entry.Moves e f) : e.MarkHolds → f.MarkHolds := by
  induction h with
  | kept => exact id
  | found now delay st e => exact Entry.applyStanding_markHolds now delay st e
  | admitted deadline e settling =>
    rintro (⟨r, dark⟩ | clear)
    · rw [dark] at settling; cases settling
    · exact .inr clear
  | trans a b c _ _ first second => exact second ∘ first

/-! ### The moves of all entries -/

/-- From `s` to `t` every entry moves as commands without a reset make it move. -/
def State.EntriesMove (s t : State) : Prop := ∀ u : Uplink, Entry.Moves s.view.entries[u] t.view.entries[u]

namespace State.EntriesMove

theorem of_entries (h : t.view.entries = s.view.entries) : s.EntriesMove t := fun u => by rw [h]; exact .kept _

theorem of_view (h : t.view = s.view) : s.EntriesMove t := of_entries (congrArg View.entries h)

theorem of_face (h : t.face = s.face) : s.EntriesMove t := of_view (State.face_eq h).1

theorem trans (a : s.EntriesMove t) (b : t.EntriesMove r) : s.EntriesMove r := fun u => .trans _ _ _ (a u) (b u)

theorem refind (u : Uplink) (s : State) : s.EntriesMove (s.refind u) := fun v => by
  rw [State.refind_entries, setAt_get]
  split
  · next e => subst e; exact .found _ _ _ _
  · exact .kept _

theorem refindAll (us : List Uplink) (s : State) : s.EntriesMove (s.refindAll us) := by
  induction us generalizing s with
  | nil => exact of_view rfl
  | cons u us ih => exact (refind u s).trans (ih _)

theorem handStatus (p : Port) (old : PortStatus) (s : State) : s.EntriesMove (s.handStatus p old) := by
  rcases s.handStatus_cases p old with ⟨-, e⟩ | ⟨x, face, e⟩ <;> rw [e]
  · exact of_view rfl
  · exact (of_face face).trans (refindAll _ x)

theorem decayPort (p : Port) (s : State) : s.EntriesMove (s.decayPort p) := by
  rw [State.decayPort_eq]
  exact trans (t := s.setMonitor p _) (of_view rfl) (handStatus _ _ _)

theorem foldl_decayPort (ps : List Port) (s : State) : s.EntriesMove (ps.foldl State.decayPort s) := by
  induction ps generalizing s with
  | nil => exact of_view rfl
  | cons p ps ih => exact (decayPort p s).trans (ih _)

theorem loseCard (c : CardId) (s : State) : s.EntriesMove (s.loseCard c) :=
  trans (t := (s.setCard c _).append (.cardLost c)) (of_entries rfl) (refindAll _ _)

theorem applyFrame (c : CardId) (cls : FrameClass) (st : Statuses) (s : State) : s.EntriesMove (s.applyFrame c cls st) := by
  refine trans (of_entries ?_) (refindAll (uplinksOf c) _)
  rw [(State.face_eq (State.appendIf_face _ _)).1]
  rfl

theorem of_hears (h : s.Hears t) : s.EntriesMove t := by
  rcases h with view | ⟨x, c, cls, st, view, -, -, -, e⟩
  · exact of_view view
  · rw [e]
    exact (of_view view).trans (applyFrame c cls st x)

theorem takeBits (bits : List Bool) (s : State) : s.EntriesMove (s.takeBits bits) := by
  induction bits generalizing s with
  | nil => exact of_view rfl
  | cons b bits ih => exact (of_hears (s.takeBit_hears b)).trans (ih _)

theorem isolationStart (s : State) : s.EntriesMove s.isolationStart := by
  have marked : s.EntriesMove s.isolationMarked := of_entries s.isolationMarked_frame.2.1
  rw [State.isolationStart_eq]
  split
  · exact marked.trans (refindAll _ _)
  · exact marked

theorem setDraining (b : Bool) (s : State) : s.EntriesMove (s.setDraining b) :=
  trans (t := s.withView { s.view with draining := b }) (of_entries rfl) (refindAll _ _)

/-- A command that comes in on the port moves what its effect moves, or nothing. -/
theorem takeCommand (inPhase : Bool) (effect : State → State) (h : s.EntriesMove (effect s)) :
    s.EntriesMove (s.takeCommand inPhase effect) := by
  rcases s.takeCommand_cases inPhase effect with ⟨-, -, e⟩ | ⟨-, -, e⟩ | ⟨-, e⟩ | ⟨-, e⟩ <;> rw [e]
  · exact h
  all_goals exact of_view rfl

end State.EntriesMove

open State (EntriesMove)

/-! ### The commands that move entries -/

theorem execLossTimerExpiry_entries (p : Port) (h : execLossTimerExpiry p s = .next t) : s.EntriesMove t := by
  obtain rfl := Host.Outcome.next.inj h
  split
  · exact EntriesMove.trans (t := (s.advanceTo _).setMonitor p _) (.of_view rfl) (.handStatus _ _ _)
  all_goals exact .of_view rfl

theorem execReturnTimerExpiry_entries (p : Port) (h : execReturnTimerExpiry p s = .next t) : s.EntriesMove t := by
  obtain rfl := Host.Outcome.next.inj h
  split
  · exact EntriesMove.trans (t := (s.advanceTo _).setMonitor p _) (.of_view rfl) (.handStatus _ _ _)
  all_goals exact .of_view rfl

theorem execDecayTick_entries (h : execDecayTick s = .next t) : s.EntriesMove t := by
  obtain rfl := Host.Outcome.next.inj h
  split
  · exact .of_view rfl
  · exact EntriesMove.trans (.of_face (by simp)) (.foldl_decayPort _ _)

theorem execAdmissionDeadline_entries (u : Uplink) (h : execAdmissionDeadline u s = .next t) : s.EntriesMove t := by
  obtain rfl := Host.Outcome.next.inj h
  split
  · next deadline settling =>
    intro v
    rw [State.moveEntry_entries, setAt_get]
    split
    · next e => subst e; exact .admitted deadline _ settling
    · exact .kept _
  all_goals exact .of_view rfl

theorem execPresenceDeadline_entries (c : CardId) (h : execPresenceDeadline c s = .next t) : s.EntriesMove t := by
  obtain rfl := Host.Outcome.next.inj h
  split
  · exact EntriesMove.trans (t := s.advanceTo _) (.of_view rfl) (.loseCard c _)
  · exact .of_view rfl

theorem execFrameReceived_entries (gap : Nat) (bits : List Bool) (h : execFrameReceived gap bits s = .next t) :
    s.EntriesMove t := by
  obtain rfl := Host.Outcome.next.inj h
  split
  · split
    · exact EntriesMove.trans (.of_view (by simp)) (.takeBits bits _)
    · exact .takeBits bits s
    · exact .takeBits bits s
    · exact .of_view rfl
  · exact .of_view rfl

theorem execStuckLine_entries (stretch : Nat) (receiving : Bool) (h : execStuckLine stretch receiving s = .next t) :
    s.EntriesMove t := by
  obtain rfl := Host.Outcome.next.inj h
  split
  · refine EntriesMove.trans ?_ (.isolationStart _)
    exact .of_view (s.discardReception_view receiving)
  · exact .of_view rfl

theorem execFaultRecovery_entries (recessive : Nat) (h : execFaultRecovery recessive s = .next t) : s.EntriesMove t := by
  obtain rfl := Host.Outcome.next.inj h
  split
  · split
    · exact .of_view rfl
    · refine EntriesMove.trans ?_ (.of_face (State.raiseDue_face _ _))
      exact .of_entries (State.isolationEnd_frame _).2.1
  all_goals exact .of_view rfl

theorem execDrain_entries (h : execDrain s = .next t) : s.EntriesMove t := by
  obtain rfl := Host.Outcome.next.inj h
  refine .takeCommand _ _ ?_
  split
  · exact .of_view rfl
  · split
    · exact .of_view rfl
    · exact (EntriesMove.setDraining true s).trans (.of_face (by simp))

theorem execUndrain_entries (h : execUndrain s = .next t) : s.EntriesMove t := by
  obtain rfl := Host.Outcome.next.inj h
  refine .takeCommand _ _ ?_
  dsimp only
  split
  · exact (EntriesMove.setDraining false s).trans (.of_face (by simp))
  · exact .of_view rfl

theorem State.beginLoad_view (straps : CardId) (s : State) : (s.beginLoad straps).view = s.view := by
  unfold State.beginLoad
  split <;> rfl

theorem State.finishLoading_entries (c : Settings) (noted : Option JournalBody) (s : State) :
    s.EntriesMove (s.finishLoading c noted) := fun u => by
  rw [State.finishLoading_entry]
  split
  · exact .found 0 0 (.dark _) _
  · exact .kept _

theorem execEndOfLoading_entries (rom : RomRead) (h : execEndOfLoading rom s = .next t) : s.EntriesMove t := by
  obtain rfl := Host.Outcome.next.inj h
  split
  · exact s.finishLoading_entries _ _
  · exact s.finishLoading_entries _ _
  all_goals exact .of_view rfl

theorem execListenDeadline_entries (h : execListenDeadline s = .next t) : s.EntriesMove t := by
  obtain rfl := Host.Outcome.next.inj h
  split
  · exact .of_view (congrArg Face.view (State.enterServe_face _))
  all_goals exact .of_view rfl

theorem exec_entries (c : Instr) (noReset : c.canReset = false) (h : exec c s = .next t) : s.EntriesMove t := by
  by_cases quiet : c.quiet = true
  · exact .of_face (exec_quiet_face c quiet h)
  cases c with
  | lossTimerExpiry p => exact execLossTimerExpiry_entries p h
  | returnTimerExpiry p => exact execReturnTimerExpiry_entries p h
  | decayTick => exact execDecayTick_entries h
  | admissionDeadline u => exact execAdmissionDeadline_entries u h
  | presenceDeadline k => exact execPresenceDeadline_entries k h
  | frameReceived gap bits => exact execFrameReceived_entries gap bits h
  | frameStart gap edge =>
    rcases execFrameStart_view gap edge h with rfl | ⟨-, view⟩
    · exact .of_view rfl
    · exact .of_view view
  | arbitrationLost =>
    rcases execArbitrationLost_view h with rfl | ⟨-, view⟩
    · exact .of_view rfl
    · exact .of_view view
  | abort =>
    rcases execAbort_hears h with rfl | ⟨-, hears⟩
    · exact .of_view rfl
    · exact .of_hears hears
  | frameComplete =>
    rcases execFrameComplete_view h with rfl | ⟨-, view⟩
    · exact .of_view rfl
    · exact .of_view view
  | muteTimerExpiry =>
    rcases execMuteTimerExpiry_view h with rfl | ⟨-, view⟩
    · exact .of_view rfl
    · exact .of_view view
  | stuckLine stretch receiving => exact execStuckLine_entries stretch receiving h
  | faultRecovery recessive => exact execFaultRecovery_entries recessive h
  | drain => exact execDrain_entries h
  | undrain => exact execUndrain_entries h
  | resetNReleased straps =>
    obtain rfl := Host.Outcome.next.inj h
    exact .of_view (by split <;> simp [State.beginLoad_view])
  | warmNReleased straps =>
    obtain rfl := Host.Outcome.next.inj h
    exact .of_view (by split <;> simp [State.beginLoad_view])
  | loadTimeout =>
    obtain rfl := Host.Outcome.next.inj h
    exact .of_view (by split <;> rfl)
  | endOfLoading rom => exact execEndOfLoading_entries rom h
  | listenDeadline => exact execListenDeadline_entries h
  | powerUp => cases noReset
  | resetNAsserted => cases noReset
  | warmNAsserted => cases noReset
  | chipSelectRelease => cases noReset
  | _ => exact absurd rfl quiet

/-! ### The resets -/

/-- A command that can perform a reset leaves the view as it is, or at its reset values (R47). -/
theorem exec_canReset_view (c : Instr) (reset : c.canReset = true) (h : exec c s = .next t) :
    t.view = s.view ∨ t.view = View.reset := by
  cases c with
  | powerUp straps =>
    obtain rfl := Host.Outcome.next.inj h
    exact .inr (State.beginLoad_view straps s.coldReset)
  | resetNAsserted =>
    obtain rfl := Host.Outcome.next.inj h
    split
    · exact .inl rfl
    · exact .inr rfl
  | warmNAsserted =>
    obtain rfl := Host.Outcome.next.inj h
    dsimp only
    split
    · exact .inl rfl
    · split
      · exact .inl rfl
      · exact .inr rfl
  | chipSelectRelease r =>
    obtain rfl := Host.Outcome.next.inj h
    have again : ∀ u : State, (if r.again = true then u.selectPort else u).view = u.view := fun u => by split <;> rfl
    dsimp only
    rw [again]
    split
    · exact .inr (State.beginLoad_view _ _)
    · exact .inl rfl
  | _ => cases reset

theorem exec_markLaw (c : Instr) (law : s.MarkLaw) (h : exec c s = .next t) : t.MarkLaw := fun u => by
  cases reset : c.canReset with
  | false => exact (exec_entries c reset h u).markHolds (law u)
  | true =>
    rcases exec_canReset_view c reset h with view | view
    · rw [view]
      exact law u
    · have dark : View.reset.entries[u] = ⟨.dark .unheard, true⟩ := by simp [View.reset]
      rw [view, dark]
      exact .inl ⟨_, rfl⟩

/-- Settles O15: no move of an entry sets its mark, and each that brings it into service spends it; only a reset gives it back. -/
theorem firstMarkIsSpentOnce : Obligations.FirstMarkIsSpentOnce := by
  refine ⟨fun s t law h => ?_, fun c u s t h clear noReset => ?_⟩
  · unfold step at h
    split at h
    · obtain rfl := Host.Outcome.next.inj h
      exact law
    · next c rest _ => exact exec_markLaw (s := s.withPending rest) c law h
  · have without : c.canReset = false := by
      cases c <;> first | rfl | exact noReset.elim
    exact (exec_entries c without h u).clear clear

end Machine

end Sys2Proof
end

section
/-! The events of the Uplink View, with all that they hand on: what a standing makes of an entry (R31, R32), the admission and presence
deadlines (R33, R43), DRAIN and UNDRAIN (R39, R40, R74, R155, R156). -/

namespace Sys2Proof.Machine

/-! ### Standings (R31, R32) -/

theorem Entry.applyStanding_dark (now delay : Nat) (r : DarkReason) (e : Entry) :
    e.applyStanding now delay (.dark r) = { e with state := .dark r } := rfl

/-- Settles O8: by the entry's state, and in DARK by its mark and the admission delay. -/
theorem standingIsAppliedAsTheTableGives : Obligations.StandingIsAppliedAsTheTableGives := by
  intro now delay e
  refine ⟨fun _ => rfl, fun h => ?_, fun d h => ?_, fun r h => ?_⟩
  · simp only [Entry.applyStanding, h]
  · simp only [Entry.applyStanding, h]
  · obtain ⟨state, mark⟩ := e
    subst h
    cases mark
    · simp [Entry.applyStanding, ms]
    · rfl

/-! ### The newest record -/

/-- What is appended is the newest record, committed or held back. -/
theorem Journal.append_newest (x : JournalRecord) (j : Journal) : (j.append x).newest = some x := by
  unfold Journal.append
  dsimp only
  split <;> simp [Journal.newest, Journal.commitAll, Journal.push]

/-- The record of an entry that enters ADMITTED is the newest, whether its notice comes before it or after (R36). -/
theorem State.handEntered_newest (u : Uplink) (s : State) :
    (s.handEntered u).journal.newest = some ⟨.viewChange u .admitted, s.clock.timeBase⟩ := by
  unfold State.handEntered
  dsimp only
  split <;> rw [State.noticeEntered_eq] <;> exact Journal.append_newest _ _

/-! ### The admission deadline (R33) -/

theorem waitingIn_withoutUplink (q : List WorkEntry) (u : Uplink) : waitingIn (withoutUplink q u) u = false := by
  simp [waitingIn, withoutUplink]

/-- The uplink of a notice that it entered ADMITTED has CALM work, and where it had none before, no URGENT work (R109). -/
theorem Engine.noticeEntered_waiting (now : Nat) (u : Uplink) (g : Engine) :
    waitingIn (g.noticeEntered now u).calm u = true ∧
      (waitingIn g.calm u = false → waitingIn (g.noticeEntered now u).urgent u = false) := by
  unfold Engine.noticeEntered
  split
  · next waiting => exact ⟨waiting, fun k => by rw [waiting] at k; cases k⟩
  · exact ⟨by simp [waitingIn], fun _ => waitingIn_withoutUplink _ u⟩

/-- A SETTLING entry moved to ADMITTED is handed on as one that enters it. -/
theorem State.moveEntry_admits (u : Uplink) (deadline : Nat) (e : Entry) (s : State)
    (settling : s.view.entries[u].state = .settling deadline) (admitted : e.state = .admitted) :
    s.moveEntry u e = (s.withView { s.view with entries := setAt s.view.entries u e }).handEntered u := by
  have changed : (EntryState.settling deadline).detail ≠ EntryState.admitted.detail := by simp [EntryState.detail]
  rw [State.moveEntry, settling, admitted, State.handChange, if_neg changed]
  rfl

/-- Settles O12: the move of a SETTLING entry to ADMITTED, which hands on its notice and its record. -/
theorem admissionDeadlineAdmits : Obligations.AdmissionDeadlineAdmits := by
  intro u deadline s settling
  have run : exec (.admissionDeadline u) s =
      .next ((s.advanceTo deadline).moveEntry u { s.view.entries[u] with state := .admitted }) := by
    simp only [exec, execAdmissionDeadline, settling]
  have move := State.moveEntry_admits u deadline { s.view.entries[u] with state := .admitted } (s.advanceTo deadline) settling rfl
  have same := State.moveEntry_same u { s.view.entries[u] with state := .admitted } (s.advanceTo deadline)
  have entries := State.moveEntry_entries u { s.view.entries[u] with state := .admitted } (s.advanceTo deadline)
  have handsOn := State.moveEntry_handsOn u { s.view.entries[u] with state := .admitted } (s.advanceTo deadline)
  obtain ⟨engine, lookup, -, -⟩ := State.handEntered_parts u ((s.advanceTo deadline).withView
    { s.view with entries := setAt s.view.entries u { s.view.entries[u] with state := .admitted } })
  have newest := State.handEntered_newest u ((s.advanceTo deadline).withView
    { s.view with entries := setAt s.view.entries u { s.view.entries[u] with state := .admitted } })
  refine ⟨_, run, same, entries, ?_, handsOn.congr_first rfl rfl rfl rfl, ?_, ?_, ?_⟩
  · rw [move]
    exact lookup
  · rw [move]
    exact engine ▸ (Engine.noticeEntered_waiting _ u _).1
  · rw [move]
    exact engine ▸ (Engine.noticeEntered_waiting _ u _).2
  · rw [same.clock, move]
    exact newest

/-! ### The presence deadline (R43) -/

theorem State.setCard_card (c k : CardId) (x : CardRecord) (s : State) :
    (s.setCard c x).view.cards[k] = if c = k then x else s.view.cards[k] := setAt_get _ _ _ _

/-- The entries of one card refound: the others stay as they are. -/
theorem State.refindCard_entries (c : CardId) (s : State) (u : Uplink) :
    (cardOf u ≠ c → (s.refindAll (uplinksOf c)).view.entries[u] = s.view.entries[u]) ∧
    (cardOf u = c → (s.refindAll (uplinksOf c)).view.entries[u] =
      s.view.entries[u].applyStanding s.clock.now s.start.settings.admissionDelay (s.standing u)) :=
  ⟨fun other => State.refindAll_other _ _ u fun m => other ((mem_uplinksOf c u).1 m),
    fun own => State.refindAll_mem _ _ u (uplinksOf_nodup c) ((mem_uplinksOf c u).2 own)⟩

/-- An event at one card: the records it appends first, and then what its entries hand on. -/
theorem State.refindCard_handsOn (c : CardId) (s : State) : s.HandsOn [] (s.refindAll (uplinksOf c)) :=
  State.refindAll_handsOn _ (uplinksOf_ascending c) s

/-- Settles O13: CARD_LOST is appended first, and every entry of an ABSENT card is DARK. -/
theorem presenceDeadlineLosesTheCard : Obligations.PresenceDeadlineLosesTheCard := by
  intro c time s due
  have run : exec (.presenceDeadline c) s = .next ((s.advanceTo time).loseCard c) := by
    simp only [exec, execPresenceDeadline, due]
  obtain ⟨r, hr⟩ : ∃ r, r = (s.advanceTo time).setCard c ⟨.absent, s.view.cards[c].lastHeard, false⟩ := ⟨_, rfl⟩
  have lose : (s.advanceTo time).loseCard c = (r.append (.cardLost c)).refindAll (uplinksOf c) := by rw [hr]; rfl
  have standing : ∀ u, cardOf u = c → (r.append (.cardLost c)).standing u = .dark .absent := fun u own => by
    have absent : r.view.cards[cardOf u].presence = .absent := by
      rw [hr, State.setCard_card, if_pos own.symm]
    have absent' : (r.append (.cardLost c)).view.cards[cardOf u].presence = .absent := absent
    simp only [State.standing, absent']
  have handsOn := (State.refindCard_handsOn c (r.append (.cardLost c))).after_append (.cardLost c)
    (congrArg Clock.timeBase (State.refindAll_same _ _).clock)
  refine ⟨_, run, (s.advanceTo time).loseCard_same c, ?_, fun u => ?_⟩
  · rw [lose]
    subst hr
    exact handsOn.congr_first rfl rfl rfl rfl
  · obtain ⟨others, own⟩ := State.refindCard_entries c (r.append (.cardLost c)) u
    rw [lose]
    have entries : (r.append (.cardLost c)).view.entries = s.view.entries := by rw [hr]; rfl
    rw [entries] at others own
    exact ⟨others, fun k => by rw [own k, standing u k]; rfl⟩

/-! ### DRAIN and UNDRAIN (R39, R40, R74, R155, R156) -/

/-- The draining flag replaced in a running part: the own entries find their standing, and hand on what they do. -/
theorem State.setDraining_effect (b : Bool) (s : State) (self : s.view.cards[s.start.cardId].presence = .self) :
    State.SameButEntries { s with view := { s.view with draining := b } } (s.setDraining b) ∧
    s.HandsOn [] (s.setDraining b) ∧
    ∀ u : Uplink,
      (cardOf u ≠ s.start.cardId → (s.setDraining b).view.entries[u] = s.view.entries[u]) ∧
      (cardOf u = s.start.cardId → (s.setDraining b).view.entries[u] =
        s.view.entries[u].applyStanding s.clock.now s.start.settings.admissionDelay
          (if b = true then .dark .withdrawn else (s.reported (portOf u)).standing)) := by
  obtain ⟨r, hr⟩ : ∃ r : State, r = s.withView { s.view with draining := b } := ⟨_, rfl⟩
  have eq : s.setDraining b = r.refindAll (uplinksOf s.start.cardId) := by rw [hr]; rfl
  have same := State.refindAll_same (uplinksOf s.start.cardId) r
  have handsOn := State.refindCard_handsOn s.start.cardId r
  have moved := State.refindCard_entries s.start.cardId r
  rw [eq]
  subst hr
  refine ⟨same, handsOn.congr_first rfl rfl rfl rfl, fun u => ⟨(moved u).1, fun own => ?_⟩⟩
  have port : u = uplinkOf s.start.cardId (portOf u) := (uplinkOf_eq_iff u _ _).2 ⟨own, rfl⟩
  have standing : (s.withView { s.view with draining := b }).standing u =
      if b = true then .dark .withdrawn else (s.reported (portOf u)).standing := by
    have found := State.standing_own (portOf u) (s.withView { s.view with draining := b }) self
    rw [show uplinkOf (s.withView { s.view with draining := b }).start.cardId (portOf u) = u from port.symm] at found
    exact found
  rw [(moved u).2 own, standing]
  rfl

/-- The command answered OK and the sending side told, after what the moves hand on. -/
theorem State.answered_effect {s t : State} (d : Sender) (same : s.SameButEntries t) :
    State.SameButEntries (State.responding [0x00#8] { s with sender := d }) ((t.withSender d).respond .ok []) where
  pins := same.pins
  clock := same.clock
  start := same.start
  monitors := same.monitors
  cards := same.cards
  draining := same.draining
  isolated := same.isolated
  bus := same.bus
  sender := rfl
  store := same.store
  build := same.build
  sweep := same.sweep
  job := same.job
  completed := same.completed
  discarded := same.discarded
  lookup := same.lookup
  port := by simp [State.responding, State.respond, StatusCode.byte, same.port]
  freeUse := same.freeUse
  pending := same.pending

theorem State.answered_handsOn {s t : State} {first : List JournalBody} (d : Sender) (handsOn : s.HandsOn first t) :
    s.HandsOn first ((t.withSender d).respond .ok []) :=
  handsOn.congr_last rfl rfl rfl rfl rfl rfl

theorem State.takeCommand_inPhase (inPhase : Bool) (effect : State → State) (s : State) (takes : s.TakesCommand)
    (phase : inPhase = true) : s.takeCommand inPhase effect = effect s := by
  rw [phase]
  exact State.takeCommand_taken effect s takes

/-- Settles O49: DRAIN and UNDRAIN replace the flag, and tell the sending side what R74 says. -/
theorem drainAndUndrainMoveTheOwnEntries : Obligations.DrainAndUndrainMoveTheOwnEntries := by
  intro s takes
  have drain : s.start.phase = .serve → exec .drain s = .next
      (if s.sender.rejoin = true then s.respond .notYet [] else if s.view.draining = true then s.respond .ok []
        else ((s.setDraining true).raiseDue .withdraw).respond .ok []) := fun serve =>
    congrArg Host.Outcome.next (State.takeCommand_inPhase _ _ s takes (by rw [State.isServe, serve]))
  have undrain : s.isLoading = false → exec .undrain s = .next
      (if s.view.draining = true then
        ((s.setDraining false).withSender (s.setDraining false).sender.undrained).respond .ok []
      else s.respond .ok []) := fun running =>
    congrArg Host.Outcome.next (State.takeCommand_inPhase _ _ s takes (by rw [running]; rfl))
  refine ⟨fun serve rejoin => ?_, fun serve rejoin draining => ?_, fun serve rejoin draining self => ?_,
    fun running draining => ?_, fun running draining self => ?_⟩
  · rw [drain serve, rejoin]
    rfl
  · rw [drain serve, rejoin, draining]
    rfl
  · rw [drain serve, rejoin, draining]
    obtain ⟨same, handsOn, entries⟩ := s.setDraining_effect true self
    generalize s.setDraining true = t at same handsOn entries ⊢
    have told : t.sender.raise .withdraw = { s.sender with withdrawDue := true } := by
      rw [same.sender]
      rfl
    rw [if_neg (by simp), if_neg (by simp), State.raiseDue, told]
    exact ⟨_, rfl, State.answered_effect _ same, State.answered_handsOn _ handsOn, entries⟩
  · rw [undrain running, draining]
    rfl
  · rw [undrain running, draining]
    obtain ⟨same, handsOn, entries⟩ := s.setDraining_effect false self
    generalize s.setDraining false = t at same handsOn entries ⊢
    have told : t.sender.undrained =
        { s.sender with withdrawDue := false, beaconDue := true, rejoin := true } := by
      rw [same.sender]
      rfl
    rw [if_pos rfl, told]
    refine ⟨_, rfl, State.answered_effect _ same, State.answered_handsOn _ handsOn, fun u => ⟨(entries u).1, fun own => ?_⟩⟩
    have moved := (entries u).2 own
    rw [if_neg (by simp)] at moved
    refine moved.trans ?_
    cases s.reported (portOf u) <;> rfl

end Sys2Proof.Machine
end

section
/-! A stuck line and the end of FAULT, with all that they hand on (R44 to R46, R64, R65). -/

namespace Sys2Proof.Machine

/-! ### The entry to FAULT (R64) -/

/-- A frame in reception is counted as a framing error unless this chip aborted in it (R64). -/
theorem State.discardReception_eq (receiving : Bool) (s : State) : s.discardReception receiving = s.withBus { s.bus with
    framingErrors := match s.bus.framer with
      | .receiving aborted _ => if aborted = true then s.bus.framingErrors else satInc s.bus.framingErrors
      | .gap _ => if receiving = true then satInc s.bus.framingErrors else s.bus.framingErrors
      | _ => s.bus.framingErrors } := by
  unfold State.discardReception
  cases s.bus.framer with
  | off => rfl
  | gap idle => cases receiving <;> rfl
  | sending cls st sent => rfl
  | receiving aborted taken => cases aborted <;> rfl

/-- The standing that a remote card's record gives its uplink of port `p` (R31). -/
def CardRecord.remoteStanding (p : Port) (r : CardRecord) : Standing :=
  match r.presence with
  | .self => .inService
  | .unheard => .dark .unheard
  | .absent => .dark .absent
  | .withdrawn _ => .dark .withdrawn
  | .present _ => presentStanding r.recheck (r.heard p)

theorem State.standing_eq_remote (s : State) (u : Uplink) (remote : s.view.cards[cardOf u].presence ≠ .self) :
    s.standing u = s.view.cards[cardOf u].remoteStanding (portOf u) := by
  unfold State.standing CardRecord.remoteStanding
  dsimp only
  generalize s.view.cards[cardOf u] = r at remote
  obtain ⟨presence, lastHeard, recheck⟩ := r
  cases presence with
  | self => exact absurd rfl remote
  | _ => rfl

theorem presentStanding_isolated (recheck : Bool) (st : PortStatus) : presentStanding true st =
    if presentStanding recheck st = .inService then .dark .isolated else presentStanding recheck st := by
  cases st <;> cases recheck <;> rfl

/-- Under LOCAL isolation takes what is in service out of it, and leaves the rest with its reason (R31, R45). -/
theorem CardRecord.isolated_standing (r : CardRecord) (p : Port) (remote : r.presence ≠ .self) :
    (r.isolated .localOnly).remoteStanding p =
      if r.remoteStanding p = .inService then .dark .isolated else r.remoteStanding p := by
  obtain ⟨presence, lastHeard, recheck⟩ := r
  cases presence with
  | self => exact absurd rfl remote
  | unheard => rfl
  | absent => rfl
  | withdrawn d => rfl
  | present d =>
    have marked : (CardRecord.isolated .localOnly ⟨.present d, lastHeard, recheck⟩).remoteStanding p =
        presentStanding true (CardRecord.heard ⟨.present d, lastHeard, recheck⟩ p) := by
      simp [CardRecord.isolated, CardRecord.remoteStanding, Presence.suspend, Presence.heard, CardRecord.heard]
    rw [marked]
    simp only [CardRecord.remoteStanding]
    exact presentStanding_isolated _ _

theorem State.isolationMarked_standing_local (s : State) (u : Uplink) (policy : s.start.settings.policy = .localOnly)
    (remote : s.view.cards[cardOf u].presence ≠ .self) :
    s.isolationMarked.standing u = if s.standing u = .inService then .dark .isolated else s.standing u := by
  have card := s.isolationMarked_card (cardOf u)
  rw [policy] at card
  have still : s.isolationMarked.view.cards[cardOf u].presence ≠ .self := by
    rw [card, Ne, Presence.self_iff_code, ← Ne]
    rw [Ne, Presence.self_iff_code] at remote
    exact (Presence.suspend_code _).symm ▸ remote
  rw [State.standing_eq_remote _ u still, State.standing_eq_remote s u remote, card]
  exact CardRecord.isolated_standing _ _ remote

/-- The report of isolation hands on what the refound entries hand on, and nothing under HOLD. -/
theorem State.isolationStart_handsOn (s : State) : s.HandsOn [] s.isolationStart := by
  obtain ⟨entries, engine, lookup, journal⟩ : s.isolationMarked.view.entries = s.view.entries ∧
      s.isolationMarked.engine = s.engine ∧ s.isolationMarked.lookup = s.lookup ∧ s.isolationMarked.journal = s.journal := by
    simp only [State.isolationMarked, true_and]
  have marked : s.isolationMarked.HandsOn [] s.isolationStart := by
    rw [State.isolationStart_eq]
    split
    · exact State.refindAll_handsOn _ s.remoteUplinks_ascending _
    · exact .refl _
  exact marked.congr_first entries.symm engine.symm (by rw [lookup]) journal.symm

theorem State.isolationStart_clock (s : State) : s.isolationStart.clock = s.clock := by
  rw [s.isolationStart_same.clock]
  simp only [State.isolationMarked]

/-- The entries under LOCAL: the own ones stay, a remote one in service is DARK with reason ISOLATED, one that was DARK stays (R45). -/
theorem State.isolationStart_local (s : State) (policy : s.start.settings.policy = .localOnly) (u : Uplink) :
    (cardOf u = s.start.cardId → s.isolationStart.view.entries[u] = s.view.entries[u]) ∧
    (cardOf u ≠ s.start.cardId → s.view.cards[cardOf u].presence ≠ .self →
      s.isolationStart.view.entries[u] = s.view.entries[u].applyStanding s.clock.now s.start.settings.admissionDelay
        (if s.standing u = .inService then .dark .isolated else s.standing u)) := by
  obtain ⟨start, entries, clock⟩ : s.isolationMarked.start = s.start ∧ s.isolationMarked.view.entries = s.view.entries ∧
      s.isolationMarked.clock = s.clock := by
    simp only [State.isolationMarked, true_and]
  rw [State.isolationStart_eq, if_pos policy, ← entries]
  refine ⟨fun own => ?_, fun other remote => ?_⟩
  · exact State.refindAll_other _ _ u fun m => (State.mem_remoteUplinks s u).1 m own
  · rw [State.refindAll_mem _ _ u s.remoteUplinks_nodup ((State.mem_remoteUplinks s u).2 other),
      State.isolationMarked_standing_local s u policy remote, clock, start]

/-- The state in which isolation is reported: FAULT, with BUS_FAULT journalled (R64). -/
def State.faulted (receiving : Bool) (s : State) : State :=
  { s with
    bus := { s.bus with
      ctl := .fault
      framer := .off
      abortRun := 0
      framingErrors := match s.bus.framer with
        | .receiving aborted _ => if aborted = true then s.bus.framingErrors else satInc s.bus.framingErrors
        | .gap _ => if receiving = true then satInc s.bus.framingErrors else s.bus.framingErrors
        | _ => s.bus.framingErrors }
    journal := s.journal.append ⟨.busFault, s.clock.timeBase⟩ }

theorem exec_stuckLine (stretch : Nat) (receiving : Bool) (s : State) (receives : s.bus.ctl.receives = true)
    (stuck : 64 < stretch) (silent : s.drivesLine = false) :
    exec (.stuckLine stretch receiving) s = .next (s.faulted receiving).isolationStart := by
  have taken : (s.bus.ctl.receives && decide (Config.stuckLimit < stretch) && !s.drivesLine) = true := by
    simp [receives, silent, Config.stuckLimit, stuck]
  refine congrArg Host.Outcome.next ?_
  rw [if_pos taken, State.enterFault, State.discardReception_eq]
  rfl

/-- Settles O19: the entry to FAULT, and then the report of isolation under either policy. -/
theorem stuckLineIsolates : Obligations.StuckLineIsolates := by
  intro stretch receiving s receives stuck silent
  have run := exec_stuckLine stretch receiving s receives stuck silent
  have same := (s.faulted receiving).isolationStart_same
  have handsOn := (s.faulted receiving).isolationStart_handsOn
  have eq := (s.faulted receiving).isolationStart_eq
  have sameStanding : ∀ u, (s.faulted receiving).standing u = s.standing u := fun u => State.standing_congr u rfl rfl rfl
  have localEntries := fun policy u => sameStanding u ▸ (s.faulted receiving).isolationStart_local policy u
  have time : (s.faulted receiving).isolationStart.clock = s.clock := State.isolationStart_clock _
  generalize (s.faulted receiving).isolationStart = t at *
  refine ⟨t, run, ?_, ?_, fun hold => ?_, fun policy u => ?_⟩
  · exact (State.append_same .busFault _).trans same
  · have first : (s.append .busFault).HandsOn [] t := handsOn.congr_first rfl rfl rfl rfl
    exact first.after_append _ (congrArg Clock.timeBase time)
  · have marked : t = (s.faulted receiving).isolationMarked := eq.trans (if_neg fun k => by
      rw [show (s.faulted receiving).start = s.start from rfl, hold] at k; cases k)
    rw [marked]
    simp only [State.isolationMarked, State.faulted, true_and]
  · obtain ⟨own, remote⟩ := localEntries policy u
    refine ⟨own, fun other d present up => ?_, fun other law => ?_⟩
    · have notSelf : s.view.cards[cardOf u].presence ≠ .self := fun self => by rw [present] at self; cases self
      have standing : (if s.standing u = .inService then Standing.dark .isolated else s.standing u) = .dark .isolated := by
        rw [State.standing_eq_remote s u notSelf]
        simp only [CardRecord.remoteStanding, present, up, presentStanding]
        split <;> simp
      rw [remote other notSelf, standing]
      rfl
    · have notSelf : s.view.cards[cardOf u].presence ≠ .self := fun self => other ((law.own _).1 self).1
      have agree := law.agree u
      have moved := remote other notSelf
      cases state : s.view.entries[u].state with
      | admitted =>
        have inService : s.standing u = .inService := by rwa [state] at agree
        rw [if_pos inService] at moved
        exact moved
      | settling d =>
        have inService : s.standing u = .inService := by rwa [state] at agree
        rw [if_pos inService] at moved
        exact moved
      | dark r =>
        have dark : s.standing u = .dark r := by rwa [state] at agree
        rw [dark, if_neg (by simp)] at moved
        refine moved.trans ?_
        change ({ s.view.entries[u] with state := .dark r } : Entry) = s.view.entries[u]
        rw [← state]

/-! ### The end of FAULT (R46, R65) -/

/-- Settles O20: below 11 bit times nothing happens, and at 11 the end of isolation is reported. -/
theorem faultRecoveryEndsIsolation : Obligations.FaultRecoveryEndsIsolation := by
  intro recessive s fault
  refine ⟨fun few => ?_, fun enough => ?_⟩
  · have short : recessive < Config.idleGap := few
    simp only [exec, execFaultRecovery, fault, if_pos short]
  · have long : ¬ recessive < Config.idleGap := Nat.not_lt.2 enough
    simp only [exec, execFaultRecovery, fault, if_neg long]
    refine congrArg Host.Outcome.next ?_
    have resumed : ∀ (time : Nat) (x : Presence), x.resume time = (match x with
        | .present .suspended => .present (.due time)
        | .withdrawn .suspended => .withdrawn (.due time)
        | other => other) := fun time x => by
      rcases x with _ | _ | ⟨_ | _⟩ | ⟨_ | _⟩ | _ <;> rfl
    simp only [State.isolationEnd, State.raiseDue, State.withView, State.withSender, State.append, State.withJournal,
      State.withBus, Sender.raise, State.presenceWindow, ms, resumed]
    rfl

end Sys2Proof.Machine
end

section
/-! The frame of another card (R41, R42, R51 to R53, R56, R57, section 12.2): its fields, its reception bit by bit, and its application. -/

namespace Sys2Proof.Machine

variable {s t : State}

/-! ### The fields of a frame -/

/-- The low word of two put together. -/
theorem extractLsb'_low {v w : Nat} {hi : BitVec v} {lo : BitVec w} : (hi ++ lo).extractLsb' 0 w = lo :=
  BitVec.extractLsb'_append_eq_right

/-- A field above the low word of two put together. -/
theorem extractLsb'_past {v w len : Nat} {hi : BitVec v} {lo : BitVec w} {x : BitVec len} (start : Nat)
    (field : hi.extractLsb' start len = x) : (hi ++ lo).extractLsb' (start + w) len = x := by
  rw [BitVec.extractLsb'_append_eq_of_le (Nat.le_add_left w start), Nat.add_sub_cancel, field]

/-- The fields of six words put together, the last on the line lowest (section 12.2). -/
theorem frameFields_append (sync : BitVec 8) (cls : BitVec 2) (card : BitVec 4) (status crc : BitVec 16) (ends : BitVec 2) :
    frameEndBits (sync ++ cls ++ card ++ status ++ crc ++ ends) = ends ∧
    frameCrcBits (sync ++ cls ++ card ++ status ++ crc ++ ends) = crc ∧
    frameStatusBits (sync ++ cls ++ card ++ status ++ crc ++ ends) = status ∧
    frameCardBits (sync ++ cls ++ card ++ status ++ crc ++ ends) = card ∧
    frameClassBits (sync ++ cls ++ card ++ status ++ crc ++ ends) = cls := by
  refine ⟨extractLsb'_low (hi := sync ++ cls ++ card ++ status ++ crc), ?_, ?_, ?_, ?_⟩
  · exact extractLsb'_past 0 extractLsb'_low
  · exact extractLsb'_past 16 (extractLsb'_past 0 extractLsb'_low)
  · exact extractLsb'_past 32 (extractLsb'_past 16 (extractLsb'_past 0 extractLsb'_low))
  · exact extractLsb'_past 36 (extractLsb'_past 20 (extractLsb'_past 4 (extractLsb'_past 0 extractLsb'_low)))

theorem frameClassOf_code (cls : FrameClass) : frameClassOf cls.code = cls := by cases cls <;> rfl

theorem portStatusOf_code (x : PortStatus) : portStatusOf x.code = x := by cases x <;> rfl

/-- The two bits of a port in the status field (section 12.2). -/
theorem statusWord_port (st : Statuses) (p : Port) : (statusWord st).extractLsb' (2 * p.val) 2 = st[p].code := by
  fin_cases p
  · exact extractLsb'_low
  · exact extractLsb'_past 0 extractLsb'_low
  · exact extractLsb'_past 2 (extractLsb'_past 0 extractLsb'_low)
  · exact extractLsb'_past 4 (extractLsb'_past 2 (extractLsb'_past 0 extractLsb'_low))
  · exact extractLsb'_past 6 (extractLsb'_past 4 (extractLsb'_past 2 (extractLsb'_past 0 extractLsb'_low)))
  · exact extractLsb'_past 8 (extractLsb'_past 6 (extractLsb'_past 4 (extractLsb'_past 2 (extractLsb'_past 0 extractLsb'_low))))
  · exact extractLsb'_past 10 (extractLsb'_past 8 (extractLsb'_past 6 (extractLsb'_past 4 (extractLsb'_past 2
      (extractLsb'_past 0 extractLsb'_low)))))
  · exact extractLsb'_past 12 (extractLsb'_past 10 (extractLsb'_past 8 (extractLsb'_past 6 (extractLsb'_past 4
      (extractLsb'_past 2 (extractLsb'_past 0 BitVec.extractLsb'_eq_self))))))

/-- The statuses of a status field are those put into it. -/
theorem statusesOf_statusWord (st : Statuses) : statusesOf (statusWord st) = st := by
  apply Vector.ext
  intro i hi
  have port := statusWord_port st ⟨i, hi⟩
  simp only [statusesOf, Vector.getElem_ofFn, port]
  exact portStatusOf_code _

/-! ### Its reception -/

/-- A frame that agrees with its own CRC and end bits is disposed of by its fields (R55 to R57). -/
theorem State.judge_frameBits (aborted : Bool) (cls : FrameClass) (c : CardId) (st : Statuses) (s : State) :
    s.judge aborted (frameBits cls c st) = s.dispose c cls st := by
  obtain ⟨ends, crc, status, card, code⟩ := frameFields_append syncPattern cls.code (BitVec.ofFin (w := 4) c) (statusWord st)
    (frameCrc cls.code (BitVec.ofFin (w := 4) c) (statusWord st)) 3#2
  unfold State.judge frameBits
  rw [ends, crc, status, card, code, statusesOf_statusWord, frameClassOf_code, if_neg (fun h => h rfl), if_neg (fun h => h rfl)]

/-- The rest of a frame in reception is taken bit by bit, and the frame judged as a whole (R53, R55). -/
theorem State.takeBits_lineBits (aborted : Bool) (cls : FrameClass) (c : CardId) (st : Statuses) (bits taken : List Bool)
    (s : State) (receiving : s.bus.framer = .receiving aborted taken) (short : taken.length < 48)
    (frame : taken ++ bits = lineBits cls c st) : s.takeBits bits = (s.setFramer (.gap 0)).dispose c cls st := by
  induction bits generalizing taken s with
  | nil =>
    have whole := congrArg List.length frame
    rw [List.append_nil, lineBits_length] at whole
    omega
  | cons b bits ih =>
    have frame' : (taken ++ [b]) ++ bits = lineBits cls c st := by rw [List.append_assoc]; exact frame
    have part : (lineBits cls c st).take (taken ++ [b]).length = taken ++ [b] := by rw [← frame', List.take_left]
    have sync : syncHolds (taken ++ [b]) = true := by rw [← part]; exact syncHolds_take_lineBits cls c st _
    have taking : s.takeBit b = s.hear aborted (taken ++ [b]) := by rw [State.takeBit, receiving]
    rw [State.takeBits_cons, taking]
    obtain ⟨wrong, -⟩ | ⟨-, more, heard⟩ | ⟨-, full, heard⟩ := State.hear_cases aborted (taken ++ [b]) s
    · rw [sync] at wrong
      contradiction
    · rw [heard]
      exact ih (taken ++ [b]) _ rfl more frame'
    · have whole : (taken ++ [b]).take 48 = lineBits cls c st := by
        rw [List.take_of_length_le (by rw [List.length_append, List.length_singleton]; omega), ← part]
        exact List.take_of_length_le (by rw [lineBits_length]; exact full)
      have done : bits = [] := List.eq_nil_of_length_eq_zero (by
        have count := congrArg List.length frame'
        rw [List.length_append, lineBits_length] at count
        omega)
      rw [heard, whole, lineBits, frameWord_bitsOf, State.judge_frameBits, done, State.takeBits_nil]

/-! ### Its application -/

/-- What a frame journals of its card (R41, R42). -/
def frameRecords (c : CardId) (cls : FrameClass) : Presence → List JournalBody
  | .unheard => if cls = .withdraw then [.cardWithdrawn c] else [.cardSeen c]
  | .absent => if cls = .withdraw then [.cardWithdrawn c] else [.cardSeen c]
  | .withdrawn _ => if cls = .withdraw then [] else [.cardReturned c]
  | .present _ => if cls = .withdraw then [.cardWithdrawn c] else []
  | .self => if cls = .withdraw then [.cardWithdrawn c] else []

theorem frameRecords_eq (c : CardId) (cls : FrameClass) (p : Presence) :
    (if cls = .withdraw then p.withdrawRecord c else p.seenRecord c).toList = frameRecords c cls p := by
  unfold frameRecords
  cases p <;> split <;> rfl

/-- A card's entries refound after a record of its own is appended, if there is one. -/
theorem State.refindCard_afterAppend (c : CardId) (record : Option JournalBody) (s : State) :
    s.HandsOn record.toList ((s.appendIf record).refindAll (uplinksOf c)) := by
  have handsOn := State.refindCard_handsOn c (s.appendIf record)
  cases record with
  | none => exact handsOn
  | some b => exact handsOn.after_append b (congrArg Clock.timeBase (State.refindAll_same _ _).clock)

/-- The standing that a frame's class and statuses give an entry of its card (R38, R41, R42). -/
def frameStanding (cls : FrameClass) (st : Statuses) (u : Uplink) : Standing :=
  if cls = .withdraw then .dark .withdrawn
  else match st[portOf u] with
    | .up => .inService
    | .lost => .dark .lost
    | .held => .dark .held
    | .unwatched => .dark .unwatched

/-- The standing of an entry whose card's record was written by a frame. -/
theorem State.standing_framed (cls : FrameClass) (st : Statuses) (due : PresenceDeadline) (u : Uplink)
    (card : s.view.cards[cardOf u] = ⟨if cls = .withdraw then .withdrawn due else .present due, some st, false⟩) :
    s.standing u = frameStanding cls st u := by
  unfold State.standing frameStanding
  rw [card]
  by_cases withdraw : cls = .withdraw
  · rw [if_pos withdraw, if_pos withdraw]
  · rw [if_neg withdraw, if_neg withdraw]
    cases h : st[portOf u] <;> simp [presentStanding, CardRecord.heard, h]

/-- A frame applied: its records and what its entries hand on, and the entries themselves (R35, R36, R41, R42). -/
theorem State.applyFrame_effect (c : CardId) (cls : FrameClass) (st : Statuses) (s : State) :
    s.HandsOn (frameRecords c cls s.view.cards[c].presence) (s.applyFrame c cls st) ∧
    ∀ u : Uplink,
      (cardOf u ≠ c → (s.applyFrame c cls st).view.entries[u] = s.view.entries[u]) ∧
      (cardOf u = c → (s.applyFrame c cls st).view.entries[u] =
        s.view.entries[u].applyStanding s.clock.now s.start.settings.admissionDelay (frameStanding cls st u)) := by
  let due := PresenceDeadline.due (s.clock.now + s.presenceWindow)
  obtain ⟨record, hrecord⟩ : ∃ r, r = if cls = .withdraw then s.view.cards[c].presence.withdrawRecord c
    else s.view.cards[c].presence.seenRecord c := ⟨_, rfl⟩
  obtain ⟨r, hr⟩ : ∃ r, r = s.setCard c ⟨if cls = .withdraw then .withdrawn due else .present due, some st, false⟩ := ⟨_, rfl⟩
  have applied : s.applyFrame c cls st = (r.appendIf record).refindAll (uplinksOf c) := by rw [hr, hrecord]; rfl
  have same := State.appendIf_same record r
  have entries : (r.appendIf record).view.entries = s.view.entries := by rw [hr]; cases record <;> rfl
  rw [applied]
  constructor
  · rw [← frameRecords_eq, ← hrecord]
    have handsOn := State.refindCard_afterAppend c record r
    subst hr
    exact handsOn.congr_first rfl rfl rfl rfl
  · intro u
    obtain ⟨others, own⟩ := State.refindCard_entries c (r.appendIf record) u
    rw [entries] at others own
    refine ⟨others, fun k => ?_⟩
    have card : (r.appendIf record).view.cards[cardOf u] =
        ⟨if cls = .withdraw then .withdrawn due else .present due, some st, false⟩ := by
      rw [same.cards, hr, State.setCard_card, if_pos k.symm]
    rw [own k, State.standing_framed cls st due u card, same.clock, same.start, hr]
    rfl

/-- A frame of another card disposed of (R56, R57, R85). -/
theorem State.dispose_other (c : CardId) (cls : FrameClass) (st : Statuses) (s : State) (other : c ≠ s.start.cardId) :
    s.dispose c cls st = (s.withBus { s.bus with framesReceived := satInc s.bus.framesReceived }).applyFrame c cls st :=
  if_neg other

/-! ### The line outside a frame -/

/-- A dominant bit outside a frame below the gap restarts the count (R53). -/
theorem State.startEdge_early (idle : Nat) (s : State) (early : idle < 10) : s.startEdge idle = s.setFramer (.gap 0) := by
  obtain ⟨-, h⟩ | ⟨late, -⟩ | ⟨late, -⟩ := State.startEdge_cases idle s
  · exact h
  · omega
  · omega

/-- A dominant bit after the gap is the start of another's frame where none of this chip's may start (R53, R58). -/
theorem State.startEdge_receives (idle : Nat) (s : State) (late : 10 ≤ idle) (mayNot : s.mayStart = false) :
    s.startEdge idle = s.setFramer (.receiving false []) := by
  obtain ⟨early, -⟩ | ⟨-, may, -⟩ | ⟨-, -, h⟩ := State.startEdge_cases idle s
  · omega
  · rw [mayNot] at may
    contradiction
  · exact h

/-- Nothing is received in STOPPED and FAULT (R52). -/
theorem exec_frameReceived_deaf (gap : Nat) (bits : List Bool) (s : State) (deaf : s.bus.ctl.receives = false) :
    exec (.frameReceived gap bits) s = .next s := by
  simp only [exec, execFrameReceived, deaf, Bool.false_eq_true, if_false]

theorem exec_frameReceived_gap (gap idle : Nat) (bits : List Bool) (s : State) (receives : s.bus.ctl.receives = true)
    (framer : s.bus.framer = .gap idle) :
    exec (.frameReceived gap bits) s = .next ((s.startEdge (idle + gap)).takeBits bits) := by
  simp only [exec, execFrameReceived, receives, framer, if_true]

theorem exec_frameReceived_receiving (gap : Nat) (aborted : Bool) (taken bits : List Bool) (s : State)
    (receives : s.bus.ctl.receives = true) (framer : s.bus.framer = .receiving aborted taken) :
    exec (.frameReceived gap bits) s = .next (s.takeBits bits) := by
  simp only [exec, execFrameReceived, receives, framer, if_true]

/-- A dominant bit taken outside a frame is a start edge at the idle count there (R53). -/
theorem State.takeBits_dominant (idle : Nat) (later : List Bool) (s : State) (framer : s.bus.framer = .gap idle) :
    s.takeBits (false :: later) = (s.startEdge idle).takeBits later := by
  rw [State.takeBits_cons, State.takeBit, framer]
  rfl

/-- A frame taken after a start edge past the gap, or as the rest of one in reception, is disposed of (R53 to R57). -/
theorem exec_frameReceived_whole (gap : Nat) (bits : List Bool) (cls : FrameClass) (c : CardId) (st : Statuses) (s : State)
    (receives : s.bus.ctl.receives = true)
    (frame : (∃ idle, s.bus.framer = .gap idle ∧ 10 ≤ idle + gap ∧ s.mayStart = false ∧ bits = lineBits cls c st) ∨
      ∃ aborted taken, s.bus.framer = .receiving aborted taken ∧ taken.length < 48 ∧ taken ++ bits = lineBits cls c st) :
    exec (.frameReceived gap bits) s = .next ((s.setFramer (.gap 0)).dispose c cls st) := by
  obtain ⟨idle, framer, late, mayNot, whole⟩ | ⟨aborted, taken, framer, short, whole⟩ := frame
  · rw [exec_frameReceived_gap gap idle bits s receives framer, State.startEdge_receives _ s late mayNot,
      State.takeBits_lineBits false cls c st bits [] _ rfl (by decide) whole]
    rfl
  · rw [exec_frameReceived_receiving gap aborted taken bits s receives framer,
      State.takeBits_lineBits aborted cls c st bits taken s framer short whole]

/-- Settles O16: the layout of the frame, its reception bit by bit to one disposal, and the record, the entries and what they hand
on that its application writes. -/
theorem frameOfAnotherCardIsApplied : Obligations.FrameOfAnotherCardIsApplied := by
  refine ⟨lineBits_layout, fun gap bits s => ⟨exec_frameReceived_deaf gap bits s, ?_, ?_⟩, State.takeBits_nil, ?_⟩
  case refine_1 =>
    intro idle receives framer early
    rw [exec_frameReceived_gap gap idle bits s receives framer, State.startEdge_early _ s early]
    rfl
  case refine_2 =>
    intro idle n later framer
    refine ⟨?_, fun early => ?_, fun late mayNot => ?_⟩
    · rw [State.takeBits_append, State.takeBits_recessive n idle s framer]
    · rw [State.takeBits_dominant idle later s framer, State.startEdge_early idle s early]
      rfl
    · rw [State.takeBits_dominant idle later s framer, State.startEdge_receives idle s late mayNot]
      rfl
  case refine_3 =>
    intro gap bits cls c st s receives other frame
    obtain ⟨r, hr⟩ : ∃ r : State, r = s.withBus { s.bus with framer := .gap 0, framesReceived := satInc s.bus.framesReceived } :=
      ⟨_, rfl⟩
    have run : exec (.frameReceived gap bits) s = .next (r.applyFrame c cls st) := by
      rw [exec_frameReceived_whole gap bits cls c st s receives frame, State.dispose_other c cls st (s.setFramer (.gap 0)) other, hr]
      rfl
    have same := State.applyFrame_same c cls st r
    obtain ⟨handsOn, entries⟩ := State.applyFrame_effect c cls st r
    refine ⟨_, run, ?_, ?_, ?_⟩
    · rw [← satInc_eq]
      subst hr
      exact same
    · generalize r.applyFrame c cls st = t at handsOn
      subst hr
      exact handsOn.congr_first rfl rfl rfl rfl
    · generalize r.applyFrame c cls st = t at entries
      subst hr
      exact entries

end Sys2Proof.Machine
end

section
/-! What the bits taken of a frame come to (R52, R53, R55, R56, R177): the reception of a run of bits, and a whole frame's judgement read
off its 48 bits. -/

namespace Sys2Proof.Machine

/-! ### The bits of a word -/

theorem bitsOf_injective {n : Nat} {v w : BitVec n} (h : bitsOf v = bitsOf w) : v = w := by
  apply BitVec.eq_of_getMsbD_eq
  intro i hi
  have bit := congrArg (fun l => l[i]?) h
  simpa [bitsOf_get _ i hi] using bit

/-- The bits of a field are a stretch of the bits of the word. -/
theorem bitsOf_extractLsb' {n : Nat} (w : BitVec n) (start len : Nat) (inside : start + len ≤ n) :
    bitsOf (w.extractLsb' start len) = ((bitsOf w).drop (n - (start + len))).take len := by
  apply List.ext_getElem?
  intro i
  rw [List.getElem?_take]
  by_cases h : i < len
  · have place : n - (start + len - i) = n - (start + len) + i := by omega
    have fits : start + len - i ≤ n := by omega
    rw [if_pos h, List.getElem?_drop, bitsOf_get _ i h, bitsOf_get _ _ (by omega), BitVec.getMsbD_extractLsb', place]
    simp [h, fits]
  · rw [if_neg h, List.getElem?_eq_none (by rw [bitsOf_length]; omega)]

/-- A run of 48 bits is that of its word. -/
theorem bitsOf_frameWord (frame : List Bool) (len : frame.length = 48) : bitsOf (frameWord frame) = frame := by
  apply List.ext_getElem?
  intro i
  by_cases h : i < 48
  · have e : (frameWord frame).getMsbD i = (BitVec.ofBoolListBE frame).getMsbD i := by
      unfold frameWord
      rw [BitVec.getMsbD_setWidth]
      simp [len]
    rw [bitsOf_get _ i h, e, BitVec.getMsbD_ofBoolListBE, List.getD_eq_getElem?_getD,
      List.getElem?_eq_getElem (by omega), Option.getD_some]
  · rw [List.getElem?_eq_none (by rw [bitsOf_length]; omega), List.getElem?_eq_none (by omega)]

/-! ### The judgement of a whole frame (R56) -/

/-- One of the two end bits is dominant (R56). -/
def WrongEnd (frame : List Bool) : Prop := frame[46]? = some false ∨ frame[47]? = some false

/-- The CRC field is the CRC of what it covers (R56, R177). -/
def CrcAgrees (frame : List Bool) : Prop := bitsOf (crcOf ((frame.drop 8).take 22)) = (frame.drop 30).take 16

theorem frameEndBits_frameWord (frame : List Bool) (len : frame.length = 48) :
    frameEndBits (frameWord frame) = 3#2 ↔ ¬ WrongEnd frame := by
  have ends : bitsOf (frameEndBits (frameWord frame)) = [frame[46], frame[47]] := by
    rw [frameEndBits, bitsOf_extractLsb' _ _ _ (by decide), bitsOf_frameWord frame len]
    apply List.ext_getElem?
    intro i
    rcases i with _ | _ | i <;> simp
  have both : frameEndBits (frameWord frame) = 3#2 ↔ [frame[46], frame[47]] = [true, true] := by
    rw [← ends]
    exact ⟨fun h => h ▸ rfl, fun h => bitsOf_injective (h.trans (by decide))⟩
  simp [both, WrongEnd, len]

theorem frameCrcBits_frameWord (frame : List Bool) (len : frame.length = 48) :
    frameCrcBits (frameWord frame) = frameCrc (frameClassBits (frameWord frame)) (frameCardBits (frameWord frame))
      (frameStatusBits (frameWord frame)) ↔ CrcAgrees frame := by
  have field : bitsOf (frameCrcBits (frameWord frame)) = (frame.drop 30).take 16 := by
    rw [frameCrcBits, bitsOf_extractLsb' _ _ _ (by decide), bitsOf_frameWord frame len]
  have covered : bitsOf (frameClassBits (frameWord frame) ++ frameCardBits (frameWord frame) ++
      frameStatusBits (frameWord frame)) = (frame.drop 8).take 22 := by
    have front : frameClassBits (frameWord frame) ++ frameCardBits (frameWord frame) = (frameWord frame).extractLsb' 34 6 :=
      BitVec.extractLsb'_append_extractLsb'_eq_extractLsb' rfl
    have fields : (frameWord frame).extractLsb' 34 6 ++ frameStatusBits (frameWord frame) = (frameWord frame).extractLsb' 18 22 :=
      BitVec.extractLsb'_append_extractLsb'_eq_extractLsb' rfl
    rw [front, fields, bitsOf_extractLsb' _ _ _ (by decide), bitsOf_frameWord frame len]
  unfold CrcAgrees frameCrc
  rw [covered, ← field]
  exact ⟨fun h => (congrArg bitsOf h).symm, fun h => (bitsOf_injective h).symm⟩

/-- A dominant end bit is a framing error (R56). -/
theorem State.judge_wrongEnd (aborted : Bool) (frame : List Bool) (s : State) (len : frame.length = 48) (wrong : WrongEnd frame) :
    s.judge aborted (frameWord frame) = s.framingError aborted :=
  if_pos fun ends => (frameEndBits_frameWord frame len).1 ends wrong

/-- A CRC that does not agree is a CRC error (R56). -/
theorem State.judge_crc (aborted : Bool) (frame : List Bool) (s : State) (len : frame.length = 48) (ends : ¬ WrongEnd frame)
    (crc : ¬ CrcAgrees frame) : s.judge aborted (frameWord frame) = s.crcError aborted := by
  unfold State.judge
  rw [if_neg (not_not.2 ((frameEndBits_frameWord frame len).2 ends)),
    if_pos fun agrees => crc ((frameCrcBits_frameWord frame len).1 agrees)]

/-! ### The reception of a run of bits (R52, R53, R55) -/

/-- The framer that is there, put in again. -/
theorem State.setFramer_self {s : State} {f : Framer} (h : s.bus.framer = f) : s.setFramer f = s := by subst h; rfl

/-- What has been taken overwrites what the framer held. -/
theorem State.hear_setFramer (f : Framer) (aborted : Bool) (taken : List Bool) (s : State) :
    (s.setFramer f).hear aborted taken = s.hear aborted taken := rfl

/-- The bits taken so far agree with the sync pattern where more of them do. -/
theorem syncHolds_of_append {taken more : List Bool} (h : syncHolds (taken ++ more) = true) : syncHolds taken = true := by
  rw [syncHolds_iff] at h ⊢
  rintro ⟨k, field, wrong⟩
  exact h ⟨k, field, by rw [List.getElem?_append_left (List.getElem?_eq_some_iff.1 wrong).1, wrong]⟩

/-- In sync and short of 48 bits, a frame stays in reception with its progress (R52). -/
theorem State.takeBits_short (aborted : Bool) (taken bits : List Bool) (s : State)
    (receiving : s.bus.framer = .receiving aborted taken) (sync : syncHolds (taken ++ bits) = true)
    (short : (taken ++ bits).length < 48) : s.takeBits bits = s.setFramer (.receiving aborted (taken ++ bits)) := by
  induction bits generalizing taken s with
  | nil => rw [List.append_nil, State.takeBits_nil, State.setFramer_self receiving]
  | cons b bits ih =>
    rw [List.append_cons] at sync short ⊢
    have part : (taken ++ [b]).length < 48 := by rw [List.length_append] at short; omega
    have heard : s.takeBit b = s.setFramer (.receiving aborted (taken ++ [b])) := by
      obtain ⟨wrong, -⟩ | ⟨-, -, heard⟩ | ⟨-, full, -⟩ := State.hear_cases aborted (taken ++ [b]) s
      · rw [syncHolds_of_append sync] at wrong; contradiction
      · rw [State.takeBit, receiving]; exact heard
      · omega
    rw [State.takeBits_cons, heard, ih (taken ++ [b]) _ rfl sync short]
    rfl

/-- Bits whose last is the first that may end the frame are taken to what all of them come to. -/
theorem State.takeBits_hear (aborted : Bool) (taken bits : List Bool) (b : Bool) (s : State)
    (receiving : s.bus.framer = .receiving aborted taken) (sync : syncHolds (taken ++ bits) = true)
    (short : (taken ++ bits).length < 48) : s.takeBits (bits ++ [b]) = s.hear aborted (taken ++ bits ++ [b]) := by
  rw [State.takeBits_append, State.takeBits_short aborted taken bits s receiving sync short]
  rfl

/-- A sync bit that differs discards the frame at that bit (R55). -/
theorem State.takeBits_mismatch (aborted : Bool) (taken bits : List Bool) (s : State)
    (receiving : s.bus.framer = .receiving aborted taken) (start : syncHolds taken = true) (k : Nat) (field : k < 8)
    (len : (taken ++ bits).length = k + 1) (wrong : (taken ++ bits)[k]? = some (decide (k % 2 = 1)))
    (first : ∀ j < k, (taken ++ bits)[j]? ≠ some (decide (j % 2 = 1))) :
    s.takeBits bits = (s.setFramer (.gap 0)).framingError aborted := by
  have unsync : syncHolds (taken ++ bits) = false := by
    rw [← Bool.not_eq_true, syncHolds_iff]
    exact not_not.2 ⟨k, field, wrong⟩
  rcases bits.eq_nil_or_concat with rfl | ⟨front, b, rfl⟩
  · rw [List.append_nil, start] at unsync; contradiction
  · have count : (taken ++ front).length = k := by simpa [← Nat.add_assoc] using len
    have sync : syncHolds (taken ++ front) = true := by
      rw [syncHolds_iff]
      rintro ⟨j, -, h⟩
      have before := (List.getElem?_eq_some_iff.1 h).1
      refine first j (count ▸ before) ?_
      rw [List.concat_eq_append, ← List.append_assoc, List.getElem?_append_left before, h]
    rw [List.concat_eq_append, ← List.append_assoc] at unsync
    rw [List.concat_eq_append, State.takeBits_hear aborted taken front b s receiving sync (by omega), State.hear, unsync]
    rfl

/-- A frame in sync is judged at its last bit (R56). -/
theorem State.takeBits_judge (aborted : Bool) (taken bits : List Bool) (s : State)
    (receiving : s.bus.framer = .receiving aborted taken) (short : taken.length < 48) (sync : syncHolds (taken ++ bits) = true)
    (whole : (taken ++ bits).length = 48) :
    s.takeBits bits = (s.setFramer (.gap 0)).judge aborted (frameWord (taken ++ bits)) := by
  rcases bits.eq_nil_or_concat with rfl | ⟨front, b, rfl⟩
  · rw [List.append_nil] at whole; omega
  · rw [List.concat_eq_append, ← List.append_assoc] at sync whole ⊢
    have count : (taken ++ front).length < 48 := by rw [List.length_append, List.length_singleton] at whole; omega
    rw [State.takeBits_hear aborted taken front b s receiving (syncHolds_of_append sync) count]
    obtain ⟨wrong, -⟩ | ⟨-, less, -⟩ | ⟨-, -, heard⟩ := State.hear_cases aborted (taken ++ front ++ [b]) s
    · rw [sync] at wrong; contradiction
    · omega
    · rw [heard, List.take_of_length_le (by omega)]

end Sys2Proof.Machine
end

section
/-! Frames discarded, still in reception, and of this chip's own id (R52, R53, R55 to R57, R60, R66). -/

namespace Sys2Proof.Machine

/-- Bits that go on with a frame in reception, or that follow the start edge of one that this chip does not join, are taken as a
receiver takes them (R52, R53, R58). -/
theorem exec_frameReceived_inFrame (gap : Nat) (bits taken : List Bool) (aborted : Bool) (s : State)
    (receives : s.bus.ctl.receives = true)
    (frame : s.bus.framer = .receiving aborted taken ∨
      ∃ idle, s.bus.framer = .gap idle ∧ 10 ≤ idle + gap ∧ s.mayStart = false ∧ aborted = false ∧ taken = []) :
    exec (.frameReceived gap bits) s = .next ((s.setFramer (.receiving aborted taken)).takeBits bits) := by
  obtain receiving | ⟨idle, framer, late, mayNot, rfl, rfl⟩ := frame
  · rw [exec_frameReceived_receiving gap aborted taken bits s receives receiving, State.setFramer_self receiving]
  · rw [exec_frameReceived_gap gap idle bits s receives framer, State.startEdge_receives _ s late mayNot]

/-- A count of errors, in which an aborted frame does not show (R56, R60). -/
theorem satInc_unless (aborted : Bool) (c : Count16) :
    (if aborted = true then c else satInc c) = if aborted = true ∨ c = 65535#16 then c else c + 1#16 := by
  unfold satInc
  by_cases full : c = 65535#16 <;> cases aborted <;> simp [full]

/-- A framing error of a frame that has ended (R55, R56, R60). -/
theorem State.framingError_ended (aborted : Bool) (s : State) : (s.setFramer (.gap 0)).framingError aborted = { s with
    bus := { s.bus with
      framer := .gap 0
      framingErrors := if aborted = true ∨ s.bus.framingErrors = 65535#16 then s.bus.framingErrors
        else s.bus.framingErrors + 1#16 } } := by
  rw [← satInc_unless]
  cases aborted <;> rfl

/-- A CRC error of a frame that has ended (R56, R60). -/
theorem State.crcError_ended (aborted : Bool) (s : State) : (s.setFramer (.gap 0)).crcError aborted = { s with
    bus := { s.bus with
      framer := .gap 0
      crcErrors := if aborted = true ∨ s.bus.crcErrors = 65535#16 then s.bus.crcErrors
        else s.bus.crcErrors + 1#16 } } := by
  rw [← satInc_unless]
  cases aborted <;> rfl

/-- A receiving controller that is not CLASHED may become so (R52, R66). -/
theorem BusState.clashable_iff (ctl : BusState) (receives : ctl.receives = true) : ctl.clashable = true ↔ ctl ≠ .clashed := by
  cases ctl <;> simp_all [BusState.clashable, BusState.receives]

/-- A frame of this chip's own id that has ended (R57, R66). -/
theorem State.dispose_own_ended (cls : FrameClass) (st : Statuses) (s : State) (receives : s.bus.ctl.receives = true) :
    (s.setFramer (.gap 0)).dispose s.start.cardId cls st =
      if s.bus.ctl = .clashed then { s with bus := { s.bus with
        framer := .gap 0
        framesReceived := if s.bus.framesReceived = 65535#16 then 65535#16 else s.bus.framesReceived + 1#16 } }
      else { s with
        bus := { s.bus with
          ctl := .clashed
          framer := .gap 0
          clashMark := true
          framesReceived := if s.bus.framesReceived = 65535#16 then 65535#16 else s.bus.framesReceived + 1#16 }
        journal := s.journal.append ⟨.clash s.start.cardId, s.clock.timeBase⟩ } := by
  have own : (s.setFramer (.gap 0)).dispose s.start.cardId cls st =
      if s.bus.ctl.clashable = true then
        ((s.setFramer (.gap 0)).withBus { s.bus with framer := .gap 0, framesReceived := satInc s.bus.framesReceived }).enterClashed
      else (s.setFramer (.gap 0)).withBus { s.bus with framer := .gap 0, framesReceived := satInc s.bus.framesReceived } :=
    if_pos rfl
  have clashable := BusState.clashable_iff s.bus.ctl receives
  rw [own, ← satInc_eq]
  by_cases clashed : s.bus.ctl = .clashed
  · rw [if_pos clashed, if_neg fun may => clashable.1 may clashed]
    rfl
  · rw [if_neg clashed, if_pos (clashable.2 clashed)]
    rfl

/-- Settles O17: each end of a frame is what its bits, taken as a receiver takes them, come to, and what follows is taken from there. -/
theorem discardedAndClashingFrames : Obligations.DiscardedAndClashingFrames := by
  intro gap bits rest taken aborted s receives wrong start frame mismatch inSync wrongEnd crcHolds
  obtain ⟨begun, short, sync⟩ : (s.bus.framer = .receiving aborted taken ∨
      ∃ idle, s.bus.framer = .gap idle ∧ 10 ≤ idle + gap ∧ s.mayStart = false ∧ aborted = false ∧ taken = []) ∧
      taken.length < 48 ∧ syncHolds taken = true := by
    obtain ⟨receiving, short, right⟩ | ⟨idle, framer, late, mayNot, fresh, nothing⟩ := start
    · exact ⟨.inl receiving, short, (syncHolds_iff taken).2 fun ⟨k, field, w⟩ => right k field w⟩
    · exact ⟨.inr ⟨idle, framer, late, mayNot, fresh, nothing⟩, by rw [nothing]; decide, by rw [nothing]; decide⟩
  have run : ∀ more, exec (.frameReceived gap more) s = .next ((s.setFramer (.receiving aborted taken)).takeBits more) :=
    fun more => exec_frameReceived_inFrame gap more taken aborted s receives begun
  have runOn : ∀ t : State, (s.setFramer (.receiving aborted taken)).takeBits bits = t →
      exec (.frameReceived gap (bits ++ rest)) s = .next (t.takeBits rest) := fun t h => by
    rw [run, State.takeBits_append, h]
  have synced : inSync → syncHolds frame = true := fun h => (syncHolds_iff frame).2 fun ⟨k, field, w⟩ => h k field w
  refine ⟨?discarded, ?crc, ?short, ?own⟩
  case discarded =>
    rintro (⟨k, field, len, w, first⟩ | ⟨right, len, ends⟩)
    · exact runOn _ ((State.takeBits_mismatch aborted taken bits _ rfl sync k field len w first).trans
        (State.framingError_ended aborted s))
    · refine runOn _ ((State.takeBits_judge aborted taken bits _ rfl short (synced right) len).trans ?_)
      rw [State.judge_wrongEnd aborted _ _ len ends]
      exact State.framingError_ended aborted s
  case crc =>
    intro right len ends crc
    refine runOn _ ((State.takeBits_judge aborted taken bits _ rfl short (synced right) len).trans ?_)
    rw [State.judge_crc aborted _ _ len ends crc]
    exact State.crcError_ended aborted s
  case short =>
    intro right less
    rw [run, State.takeBits_short aborted taken bits _ rfl (synced right) less]
    rfl
  case own =>
    intro cls st whole
    exact runOn _ ((State.takeBits_lineBits aborted cls s.start.cardId st bits taken _ rfl short whole).trans
      (State.dispose_own_ended cls st s receives))

end Sys2Proof.Machine
end

section
/-! A frame with one wrong bit (R55, R56, R86, R177): the CRC tells two runs of bits apart that differ in one place, so every such frame is
discarded. -/

namespace Sys2Proof.Machine

/-! ### The CRC register (R177) -/

/-- The bit that leaves the register shows in its lowest place. -/
theorem crcStep_low (reg : BitVec 16) (b : Bool) : (crcStep reg b).getLsbD 0 = (b ^^ reg.msb) := by
  unfold crcStep
  cases b ^^ reg.msb <;> simp

theorem crcStep_bit_ne (reg : BitVec 16) (b : Bool) : crcStep reg (!b) ≠ crcStep reg b := by
  intro h
  have low := congrArg (fun r => r.getLsbD 0) h
  simp only [crcStep_low, Bool.xor_left_inj] at low
  exact Bool.not_ne_self b low

theorem crcStep_injective (b : Bool) {r q : BitVec 16} (h : crcStep r b = crcStep q b) : r = q := by
  have low := congrArg (fun r => r.getLsbD 0) h
  simp only [crcStep_low, Bool.xor_right_inj] at low
  have shifted : r <<< 1 = q <<< 1 := by
    unfold crcStep at h
    rw [low] at h
    split at h
    · exact (BitVec.xor_left_inj _).1 h
    · exact h
  apply BitVec.eq_of_getLsbD_eq
  intro i hi
  by_cases top : i = 15
  · rw [BitVec.msb_eq_getLsbD_last, BitVec.msb_eq_getLsbD_last] at low
    exact top ▸ low
  · have bit := congrArg (fun r => r.getLsbD (i + 1)) shifted
    have inside : i + 1 < 16 := by omega
    simpa only [BitVec.getLsbD_shiftLeft, inside, decide_true, Nat.not_lt.2 (Nat.le_add_left 1 i), decide_false, Bool.not_false,
      Bool.true_and, Nat.add_sub_cancel] using bit

theorem foldl_crcStep_injective (bits : List Bool) {r q : BitVec 16} (h : bits.foldl crcStep r = bits.foldl crcStep q) : r = q := by
  induction bits generalizing r q with
  | nil => exact h
  | cons b bits ih => exact crcStep_injective b (ih h)

/-- One bit changed gives another CRC. -/
theorem foldl_crcStep_modify_ne (bits : List Bool) (i : Nat) (inside : i < bits.length) (reg : BitVec 16) :
    (bits.modify i not).foldl crcStep reg ≠ bits.foldl crcStep reg := by
  induction bits generalizing i reg with
  | nil => simp at inside
  | cons b bits ih =>
    cases i with
    | zero => exact fun h => crcStep_bit_ne reg b (foldl_crcStep_injective bits h)
    | succ i => exact ih i (Nat.lt_of_succ_lt_succ inside) (crcStep reg b)

theorem crcOf_append_singleton (bits : List Bool) (b : Bool) : crcOf (bits ++ [b]) =
    if b = (crcOf bits).getLsbD 15 then crcOf bits <<< 1 else (crcOf bits <<< 1) ^^^ 0x1021#16 := by
  have step : crcOf (bits ++ [b]) = crcStep (crcOf bits) b := List.foldl_append
  have top : (crcOf bits).msb = (crcOf bits).getLsbD 15 := BitVec.msb_eq_getLsbD_last _
  rw [step, crcStep, top]
  cases b <;> cases (crcOf bits).getLsbD 15 <;> rfl

/-! ### One wrong bit in a frame -/

theorem modify_not_ne (bits : List Bool) (i : Nat) (inside : i < bits.length) : bits.modify i not ≠ bits := by
  intro h
  have bit := congrArg (fun l => l[i]?) h
  simp [List.getElem?_modify_eq, List.getElem?_eq_getElem inside] at bit

/-- The sync field of a sent frame (R51). -/
theorem lineBits_sync (cls : FrameClass) (c : CardId) (st : Statuses) (k : Nat) (field : k < 8) :
    (lineBits cls c st)[k]? = some (decide (k % 2 = 0)) := by
  have sync : ∀ k < 8, [true, false, true, false, true, false, true, false][k]? = some (decide (k % 2 = 0)) := by decide
  rw [lineBits_layout, List.append_assoc, List.append_assoc, List.getElem?_append_left field, sync k field]

/-- The end bits of a sent frame are recessive (R51). -/
theorem lineBits_end (cls : FrameClass) (c : CardId) (st : Statuses) (k : Nat) (past : 46 ≤ k) (inside : k < 48) :
    (lineBits cls c st)[k]? = some true := by
  have ends : ∀ j < 2, (bitsOf (3#2))[j]? = some true := by decide
  rw [lineBits, frameBits, bitsOf_append, List.getElem?_append_right (by rw [bitsOf_length]; exact past), bitsOf_length]
  exact ends _ (by omega)

/-- A sent frame carries the CRC of what it covers (R56, R177). -/
theorem lineBits_crc (cls : FrameClass) (c : CardId) (st : Statuses) : CrcAgrees (lineBits cls c st) := by
  have agrees := (frameCrcBits_frameWord (lineBits cls c st) (lineBits_length cls c st)).1
  rw [lineBits, frameWord_bitsOf] at agrees
  obtain ⟨-, crc, status, card, code⟩ := frameFields_append syncPattern cls.code (BitVec.ofFin (w := 4) c) (statusWord st)
    (frameCrc cls.code (BitVec.ofFin (w := 4) c) (statusWord st)) 3#2
  exact agrees (by rw [frameBits, crc, status, card, code])

/-- A bit changed in what the CRC covers, or in the CRC field, and the two no longer agree (R56, R86). -/
theorem not_crcAgrees_modify (frame : List Bool) (len : frame.length = 48) (agrees : CrcAgrees frame) (i : Nat) (past : 8 ≤ i)
    (before : i < 46) : ¬ CrcAgrees (frame.modify i not) := by
  unfold CrcAgrees at agrees ⊢
  rw [List.drop_modify_of_ge _ _ _ _ past, List.take_modify]
  by_cases covered : i < 30
  · rw [List.drop_modify_of_lt _ _ _ _ covered, ← agrees]
    exact fun h => foldl_crcStep_modify_ne _ (i - 8) (by simp [len]; omega) _ (bitsOf_injective h)
  · rw [List.drop_modify_of_ge _ _ _ _ (by omega), List.take_modify, List.modify_eq_self, agrees]
    · exact (modify_not_ne _ (i - 30) (by simp [len]; omega)).symm
    · simp; omega

/-- Past the sync field a changed bit leaves the frame in sync (R55). -/
theorem syncHolds_modify (frame : List Bool) (sync : syncHolds frame = true) (i : Nat) (past : 8 ≤ i) :
    syncHolds (frame.modify i not) = true := by
  rw [syncHolds_iff] at sync ⊢
  rintro ⟨k, field, wrong⟩
  rw [List.getElem?_modify_ne _ _ (by omega)] at wrong
  exact sync ⟨k, field, wrong⟩

/-- The sync pattern's bits and the wrong ones are each other's opposites (R51). -/
theorem not_decide_even (k : Nat) : (!decide (k % 2 = 0)) = decide (k % 2 = 1) := by
  rcases Nat.mod_two_eq_zero_or_one k with even | odd
  · simp [even]
  · simp [odd]

/-- A changed sync bit is the first that differs from the pattern (R51, R55). -/
theorem takeBits_wrong_sync (cls : FrameClass) (c : CardId) (st : Statuses) (i : Nat) (field : i < 8) (s : State)
    (fresh : s.bus.framer = .receiving false []) :
    s.takeBits (((lineBits cls c st).modify i not).take (i + 1)) = (s.setFramer (.gap 0)).framingError false := by
  refine State.takeBits_mismatch false [] _ s fresh rfl i field ?_ ?_ ?_
  · simp [lineBits_length]; omega
  · rw [List.nil_append, List.getElem?_take, if_pos (Nat.lt_succ_self i), List.getElem?_modify_eq, lineBits_sync cls c st i field,
      ← not_decide_even]
    rfl
  · intro j before
    rw [List.nil_append, List.getElem?_take, if_pos (by omega), List.getElem?_modify_ne _ _ (by omega),
      lineBits_sync cls c st j (by omega), ← not_decide_even]
    exact fun h => Bool.not_ne_self _ (Option.some.inj h).symm

/-- Settles O18: a sync bit that differs ends the frame; past it the CRC no longer agrees, or an end bit is dominant. -/
theorem oneWrongBitDiscardsTheFrame : Obligations.OneWrongBitDiscardsTheFrame := by
  refine ⟨⟨rfl, crcOf_append_singleton⟩, fun n w => ⟨bitsOf_length w, fun i h => ?_⟩, ?_⟩
  · rw [bitsOf_get w i h, BitVec.getMsbD_eq_getLsbD, decide_eq_true h, Bool.true_and]
  · intro gap idle cls c st i s receives framer late mayNot frame
    have run : ∀ bits, exec (.frameReceived gap bits) s = .next ((s.setFramer (.receiving false [])).takeBits bits) :=
      fun bits => exec_frameReceived_inFrame gap bits [] false s receives (.inr ⟨idle, framer, late, mayNot, rfl, rfl⟩)
    refine ⟨fun field => ?_, fun past => ⟨_, run frame, ?_⟩⟩
    · rw [run, takeBits_wrong_sync cls c st i field _ rfl]
      rfl
    · have len : frame.length = 48 := (List.length_modify ..).trans (lineBits_length cls c st)
      have whole := syncHolds_take_lineBits cls c st 48
      rw [List.take_of_length_le (by rw [lineBits_length])] at whole
      rw [State.takeBits_judge false [] frame _ rfl (by decide) (syncHolds_modify _ whole i past) len]
      by_cases ends : WrongEnd frame
      · exact .inl (State.judge_wrongEnd false frame _ len ends)
      · refine .inr (State.judge_crc false frame _ len ends ?_)
        refine not_crcAgrees_modify _ (lineBits_length cls c st) (lineBits_crc cls c st) i past ?_
        by_contra last
        have dominant : frame[i.val]? = some false := by
          rw [List.getElem?_modify_eq, lineBits_end cls c st i (by omega) i.isLt]
          rfl
        refine ends ?_
        obtain h | h : i.val = 46 ∨ i.val = 47 := by omega
        · exact .inl (h ▸ dominant)
        · exact .inr (h ▸ dominant)

end Sys2Proof.Machine
end

section
/-! The start of a frame (R53, R58, R77, R78): when this chip may start, what the start fixes, and the line taken as a receiver where it
may not. -/

namespace Sys2Proof.Machine

theorem permitsStart_iff (limit window now : Nat) (history : List Nat) : permitsStart limit window now history = true ↔
    history.length < limit ∨ ∃ oldest later, history = oldest :: later ∧ oldest + window ≤ now := by
  unfold permitsStart
  cases history <;> simp

theorem State.isServe_iff (s : State) : s.isServe = true ↔ s.start.phase = .serve := by
  unfold State.isServe
  cases s.start.phase <;> simp

theorem Sender.waiting_iff (d : Sender) : d.waiting = true ↔
    d.lossDue = true ∨ d.withdrawDue = true ∨ d.returnDue = true ∨ d.beaconDue = true := by
  simp [Sender.waiting, or_assoc]

/-- When a start that is offered is taken (R58, R77). -/
theorem State.mayStart_iff (s : State) : s.mayStart = true ↔
    (s.sender.lossDue = true ∨ s.sender.withdrawDue = true ∨ s.sender.returnDue = true ∨ s.sender.beaconDue = true) ∧
    (s.sender.history.length < s.start.settings.txLimit ∨
      ∃ oldest later, s.sender.history = oldest :: later ∧ oldest + 10 * s.start.settings.txWindow ≤ s.clock.now) ∧
    s.bus.ctl = .open ∧ s.start.phase = .serve := by
  rw [← Sender.waiting_iff, ← permitsStart_iff, ← State.isServe_iff]
  simp only [State.mayStart, State.startPermitted, Bool.and_eq_true, beq_iff_eq]
  tauto

/-- A dominant bit after the gap joins another's start edge where a frame of this chip may start (R58). -/
theorem State.startEdge_joins (idle : Nat) (s : State) (late : 10 ≤ idle) (may : s.mayStart = true) :
    s.startEdge idle = s.startFrame := by
  obtain ⟨early, -⟩ | ⟨-, -, h⟩ | ⟨-, mayNot, -⟩ := State.startEdge_cases idle s
  · omega
  · exact h
  · rw [mayNot] at may
    contradiction

/-- FRAME_START outside a frame (R53, R58): an edge as the line gives it, or without one a start at 11 or the count going on. -/
theorem exec_frameStart_gap (gap idle : Nat) (edge : Bool) (s : State) (receives : s.bus.ctl.receives = true)
    (framer : s.bus.framer = .gap idle) : exec (.frameStart gap edge) s = .next
      (if edge = true then s.startEdge (idle + gap)
        else if s.mayStart = true ∧ 11 ≤ idle + gap then s.startFrame else s.setFramer (.gap (idle + gap))) := by
  simp only [exec, execFrameStart, receives, framer, if_true, Bool.and_eq_true, decide_eq_true_eq]
  rfl

/-- Nothing is started in STOPPED and FAULT (R52, R58). -/
theorem exec_frameStart_deaf (gap : Nat) (edge : Bool) (s : State) (deaf : s.bus.ctl.receives = false) :
    exec (.frameStart gap edge) s = .next s := by
  simp only [exec, execFrameStart, deaf, Bool.false_eq_true, if_false]

/-- A start that is offered, by an edge after the gap or by a count of 11, and may be taken (R58). -/
theorem exec_frameStart_starts (gap idle : Nat) (edge : Bool) (s : State) (framer : s.bus.framer = .gap idle)
    (offered : 11 ≤ idle + gap ∨ (edge = true ∧ 10 ≤ idle + gap)) (may : s.mayStart = true) :
    exec (.frameStart gap edge) s = .next s.startFrame := by
  rw [exec_frameStart_gap gap idle edge s (by rw [(State.mayStart_open may).1]; rfl) framer]
  cases edge with
  | true => rw [if_pos rfl, State.startEdge_joins _ s (by omega) may]
  | false => rw [if_neg Bool.false_ne_true, if_pos ⟨may, by simpa using offered⟩]

/-- Where no frame starts, a controller that receives goes on as a receiver (R53). -/
theorem exec_frameStart_listens (gap idle : Nat) (edge : Bool) (s : State) (receives : s.bus.ctl.receives = true)
    (framer : s.bus.framer = .gap idle)
    (not : ¬ ((11 ≤ idle + gap ∨ (edge = true ∧ 10 ≤ idle + gap)) ∧ s.mayStart = true)) :
    exec (.frameStart gap edge) s = .next { s with bus := { s.bus with
      framer := if edge = true then (if idle + gap < 10 then .gap 0 else .receiving false []) else .gap (idle + gap) } } := by
  rw [exec_frameStart_gap gap idle edge s receives framer]
  cases edge with
  | false =>
    rw [if_neg Bool.false_ne_true, if_neg fun ⟨may, long⟩ => not ⟨.inl long, may⟩]
    rfl
  | true =>
    by_cases early : idle + gap < 10
    · rw [if_pos rfl, State.startEdge_early _ s early, if_pos rfl, if_pos early]
      rfl
    · have late : 10 ≤ idle + gap := Nat.le_of_not_lt early
      have mayNot : s.mayStart = false := by
        rw [← Bool.not_eq_true]
        exact fun may => not ⟨.inr ⟨rfl, late⟩, may⟩
      rw [if_pos rfl, State.startEdge_receives _ s late mayNot, if_pos rfl, if_neg early]
      rfl

/-- Settles O21: a start that is offered and may be taken is taken, whichever row shows it; else FRAME_START is the line alone. -/
theorem frameStartFixesTheFrame : Obligations.FrameStartFixesTheFrame := by
  intro gap idle edge bits s framer offered waiting permitted cls held started may
  have mayIff : s.mayStart = true ↔ may := s.mayStart_iff
  have receives : may → s.bus.ctl.receives = true := fun m => by rw [m.2.2.1]; rfl
  refine ⟨mayIff, fun o m => ?_, fun late m => ?_, fun late m => ?_, fun no => ?_⟩
  · exact exec_frameStart_starts gap idle edge s framer o (mayIff.2 m)
  · rw [exec_frameReceived_gap gap idle bits s (receives m) framer, State.startEdge_joins _ s late (mayIff.2 m)]
    rfl
  · rw [State.takeBits_dominant idle bits s framer, State.startEdge_joins idle s late (mayIff.2 m)]
    rfl
  · cases r : s.bus.ctl.receives with
    | true => exact exec_frameStart_listens gap idle edge s r framer fun ⟨o, m⟩ => no ⟨o, mayIff.1 m⟩
    | false => exact exec_frameStart_deaf gap edge s r

end Sys2Proof.Machine
end

section
/-! A frame of this chip (R52, R54, R59 to R63, R73, R80, R81): its read-back bit by bit, its completion, what a lost or an aborted one
hands back, and the timers of the sending side. -/

namespace Sys2Proof.Machine

/-! ### The read-back (R52, R54, R61) -/

theorem exec_frameReceived_sending (gap : Nat) (cls : FrameClass) (st : Statuses) (sent : Nat) (bits : List Bool) (s : State)
    (receives : s.bus.ctl.receives = true) (sending : s.bus.framer = .sending cls st sent) :
    exec (.frameReceived gap bits) s = .next (s.takeBits bits) := by
  simp only [exec, execFrameReceived, receives, sending, if_true]

theorem lineBits_get (cls : FrameClass) (c : CardId) (st : Statuses) (n : Nat) (inside : n < 48) :
    ∃ x, (lineBits cls c st)[n]? = some x :=
  ⟨_, List.getElem?_eq_getElem (by rw [lineBits_length]; exact inside)⟩

/-- Bits that agree move the progress on (R52). -/
theorem State.takeBits_agree (cls : FrameClass) (st : Statuses) (sent m : Nat) (s : State)
    (sending : s.bus.framer = .sending cls st sent) (more : sent + m < 48) :
    s.takeBits (((lineBits cls s.start.cardId st).drop sent).take m) = s.setFramer (.sending cls st (sent + m)) := by
  induction m with
  | zero => exact (State.setFramer_self sending).symm
  | succ m ih =>
    obtain ⟨x, own⟩ := lineBits_get cls s.start.cardId st (sent + m) (by omega)
    rw [List.take_add_one, List.getElem?_drop, own, State.takeBits_append, ih (by omega)]
    change (s.setFramer (.sending cls st (sent + m))).readBack cls st (sent + m) x = _
    obtain ⟨-, -, on⟩ | ⟨-, last, -⟩ | ⟨differs, -⟩ | ⟨differs, -⟩ :=
      State.readBack_cases cls st (sent + m) x x (s.setFramer (.sending cls st (sent + m))) own
    · exact on
    · omega
    · exact absurd rfl differs
    · exact absurd rfl differs

/-- The bits of a frame up to a place, and the bit there, taken one after the other. -/
theorem State.takeBits_upTo (cls : FrameClass) (st : Statuses) (sent n : Nat) (b : Bool) (rest : List Bool) (s : State)
    (sending : s.bus.framer = .sending cls st sent) (ahead : sent ≤ n) (inside : n < 48) :
    s.takeBits (((lineBits cls s.start.cardId st).drop sent).take (n - sent) ++ b :: rest) =
      ((s.setFramer (.sending cls st n)).readBack cls st n b).takeBits rest := by
  have place : sent + (n - sent) = n := by omega
  rw [State.takeBits_append, State.takeBits_agree cls st sent (n - sent) s sending (by omega), place, State.takeBits_cons]
  rfl

/-- The last bits read back as sent complete the frame (R61). -/
theorem State.takeBits_complete (cls : FrameClass) (st : Statuses) (sent : Nat) (rest : List Bool) (s : State)
    (sending : s.bus.framer = .sending cls st sent) (short : sent < 48) :
    s.takeBits ((lineBits cls s.start.cardId st).drop sent ++ rest) = (s.completeFrame cls).takeBits rest := by
  obtain ⟨x, own⟩ := lineBits_get cls s.start.cardId st 47 (by decide)
  have split : (lineBits cls s.start.cardId st).drop sent =
      ((lineBits cls s.start.cardId st).drop sent).take (47 - sent) ++ [x] := by
    have last : ((lineBits cls s.start.cardId st).drop sent)[47 - sent]? = some x := by
      rw [List.getElem?_drop, show sent + (47 - sent) = 47 by omega, own]
    have whole := List.take_add_one (l := (lineBits cls s.start.cardId st).drop sent) (i := 47 - sent)
    rw [List.take_of_length_le (by rw [List.length_drop, lineBits_length]; omega), last] at whole
    exact whole
  rw [split, List.append_assoc, List.singleton_append, State.takeBits_upTo cls st sent 47 x rest s sending (by omega) (by decide)]
  obtain ⟨-, more, -⟩ | ⟨-, -, done⟩ | ⟨differs, -⟩ | ⟨differs, -⟩ :=
    State.readBack_cases cls st 47 x x (s.setFramer (.sending cls st 47)) own
  · omega
  · rw [done]; rfl
  · exact absurd rfl differs
  · exact absurd rfl differs

/-! ### Completion and timers (R61, R63, R73, R81) -/

/-- Settles O23: a frame that is completed, by its row or by its last bits, and the two timers. -/
theorem completionAndTimersOfTheSendingSide : Obligations.CompletionAndTimersOfTheSendingSide := by
  refine ⟨fun out s muted => ?_, fun out s timer => ?_, ?_⟩
  · simp only [exec, execMuteTimerExpiry, muted]
    rfl
  · simp only [exec, execBeaconTimerExpiry, timer]
    have restart : ((s.advanceTo out).raiseDue .beacon).clock.now = max s.clock.now out := State.advanceTo_now out s
    rw [restart]
    rfl
  · intro cls st sent s sending t
    have completed : s.completeFrame cls = t := by
      simp only [State.completeFrame, satInc_eq]
      rfl
    constructor
    · simp only [exec, execFrameComplete, sending, completed]
    · intro short receives gap rest
      rw [exec_frameReceived_sending gap cls st sent _ s receives sending, State.takeBits_complete cls st sent rest s sending short,
        completed]

end Sys2Proof.Machine
end

section
/-! A frame of this chip that loses arbitration or is aborted (R54, R55, R59, R60, R62, R80): where its read-back differs, and what is
counted and handed back there. -/

namespace Sys2Proof.Machine

/-! ### The place of the difference (R59, R60) -/

/-- A bit of a frame at which arbitration can be lost: a 1 in the arbitration field (R59). -/
def CanLose (own : List Bool) (n : Nat) : Prop := 8 ≤ n ∧ n < 14 ∧ own[n]? = some true

theorem inArbitration_and_iff (own : List Bool) (n : Nat) : (inArbitration n && own.getD n false) = true ↔ CanLose own n := by
  have bit : own.getD n false = true ↔ own[n]? = some true := by
    rw [List.getD_eq_getElem?_getD]
    cases own[n]? <;> simp
  rw [Bool.and_eq_true, bit, inArbitration, decide_eq_true_eq, and_assoc]
  rfl

theorem lossPlace_eq_some (own : List Bool) (sent n : Nat) (ahead : sent ≤ n) (lose : CanLose own n)
    (first : ∀ m, sent ≤ m → m < n → ¬ CanLose own m) : lossPlace own sent = some n := by
  refine List.find?_range_eq_some.2 ⟨?_, List.mem_range.2 (List.getElem?_eq_some_iff.1 lose.2.2).1, fun m before => ?_⟩
  · rw [Bool.and_assoc, decide_eq_true ahead, Bool.true_and, inArbitration_and_iff]
    exact lose
  · rw [Bool.not_eq_true', ← Bool.not_eq_true, Bool.and_assoc, Bool.and_eq_true, decide_eq_true_eq, inArbitration_and_iff]
    exact fun ⟨from_sent, lost⟩ => first m from_sent before lost

theorem lossPlace_eq_none (own : List Bool) (sent : Nat) (no : ∀ n, sent ≤ n → ¬ CanLose own n) : lossPlace own sent = none := by
  refine List.find?_range_eq_none.2 fun n _ => ?_
  rw [Bool.not_eq_true', ← Bool.not_eq_true, Bool.and_assoc, Bool.and_eq_true, decide_eq_true_eq, inArbitration_and_iff]
  exact fun ⟨from_sent, lost⟩ => no n from_sent lost

theorem abortPlace_eq_some (own : List Bool) (sent n : Nat) (ahead : sent ≤ n) (inside : n < own.length) (keeps : ¬ CanLose own n)
    (first : ∀ m, sent ≤ m → m < n → CanLose own m) : abortPlace own sent = some n := by
  refine List.find?_range_eq_some.2 ⟨?_, List.mem_range.2 inside, fun m before => ?_⟩
  · rw [decide_eq_true ahead, Bool.true_and, Bool.not_eq_true', ← Bool.not_eq_true, inArbitration_and_iff]
    exact keeps
  · rw [Bool.not_eq_true', ← Bool.not_eq_true, Bool.and_eq_true, decide_eq_true_eq, Bool.not_eq_true', ← Bool.not_eq_true,
      inArbitration_and_iff]
    exact fun ⟨from_sent, aborted⟩ => aborted (first m from_sent before)

/-! ### What an abort leaves of the frame (R55, R60) -/

/-- A frame of this chip up to a bit that differs, taken on as a receiver after an abort: in the sync field a sync mismatch, at the last
bit a dominant end bit, and neither counted (R55, R56, R60). -/
theorem State.hear_differs (cls : FrameClass) (c : CardId) (st : Statuses) (n : Nat) (x : Bool) (s : State)
    (own : (lineBits cls c st)[n]? = some x) : s.hear true ((lineBits cls c st).take n ++ [!x]) =
      s.setFramer (if n < 8 ∨ n = 47 then .gap 0 else .receiving true ((lineBits cls c st).take n ++ [!x])) := by
  have inside : n < 48 := lineBits_length cls c st ▸ (List.getElem?_eq_some_iff.1 own).1
  have front : ((lineBits cls c st).take n).length = n := by rw [List.length_take, lineBits_length]; omega
  have len : ((lineBits cls c st).take n ++ [!x]).length = n + 1 := by rw [List.length_append, front, List.length_singleton]
  have bit : ((lineBits cls c st).take n ++ [!x])[n]? = some (!x) := by
    rw [List.getElem?_append_right front.le, front, Nat.sub_self]; rfl
  obtain ⟨unsync, heard⟩ | ⟨sync, short, heard⟩ | ⟨sync, full, heard⟩ :=
    State.hear_cases true ((lineBits cls c st).take n ++ [!x]) s
  all_goals rw [heard]
  case inl =>
    have field : n < 8 := by
      by_contra past
      rw [syncHolds_append _ _ (by omega), syncHolds_take_lineBits] at unsync
      cases unsync
    rw [if_pos (.inl field)]
    rfl
  case inr.inl =>
    have past : ¬ n < 8 := fun field => by
      rw [lineBits_sync cls c st n field, Option.some.injEq] at own
      exact (syncHolds_iff _).1 sync ⟨n, field, by rw [bit, ← own, not_decide_even]⟩
    rw [if_neg (by omega)]
  case inr.inr =>
    have last : n = 47 := by omega
    have wrong : WrongEnd ((lineBits cls c st).take n ++ [!x]) := by
      rw [last, lineBits_end cls c st 47 (by decide) (by decide), Option.some.injEq] at own
      rw [last, ← own] at bit ⊢
      exact .inr bit
    rw [if_pos (.inr last), List.take_of_length_le (by omega), State.judge_wrongEnd true _ _ (by omega) wrong]
    rfl

/-! ### What is counted and handed back (R59, R60, R62, R80) -/

/-- The sending side with a frame's class handed back as a due flag (R80). -/
theorem Sender.raise_handedBack (draining : Bool) (cls : FrameClass) (d : Sender) :
    d.raise (handedBack draining cls) = match cls with
      | .loss => { d with lossDue := true }
      | .return => { d with returnDue := true }
      | .beacon => { d with beaconDue := true }
      | .withdraw => if draining = true then { d with withdrawDue := true } else { d with beaconDue := true } := by
  cases cls with
  | withdraw => cases draining <;> rfl
  | _ => rfl

/-- An abort short of the 16th: the counter, the abort run and the flag (R60, R62, R80). -/
theorem State.countAbort_few (cls : FrameClass) (s : State) (few : s.bus.abortRun + 1 < 16) : s.countAbort cls = { s with
    bus := { s.bus with aborts := satInc s.bus.aborts, abortRun := s.bus.abortRun + 1 }
    sender := s.sender.raise (handedBack s.view.draining cls) } :=
  if_neg (Nat.not_le.2 few)

/-- The 16th consecutive abort mutes the controller (R62). -/
theorem State.countAbort_mutes (cls : FrameClass) (s : State) (many : ¬ s.bus.abortRun + 1 < 16) : s.countAbort cls = { s with
    bus := { s.bus with ctl := .muted (s.clock.now + 8000), aborts := satInc s.bus.aborts, abortRun := 0 }
    sender := s.sender.raise (handedBack s.view.draining cls)
    journal := s.journal.append ⟨.muted, s.clock.timeBase⟩ } :=
  if_pos (Nat.le_of_not_lt many)

/-- An abort overwrites what the framer held by the bits taken. -/
theorem State.abortFrame_setFramer (f : Framer) (cls : FrameClass) (taken : List Bool) (s : State) :
    (s.setFramer f).abortFrame cls taken = s.abortFrame cls taken := by
  by_cases few : s.bus.abortRun + 1 < 16
  · rw [State.abortFrame, State.abortFrame, State.countAbort_few cls s few, State.countAbort_few cls (s.setFramer f) few]
    rfl
  · rw [State.abortFrame, State.abortFrame, State.countAbort_mutes cls s few, State.countAbort_mutes cls (s.setFramer f) few]
    rfl

/-- The first bit that differs, read back (R59, R60). -/
theorem State.readBack_differs (cls : FrameClass) (st : Statuses) (n : Nat) (x : Bool) (s : State)
    (own : (lineBits cls s.start.cardId st)[n]? = some x) :
    (CanLose (lineBits cls s.start.cardId st) n →
      s.readBack cls st n (!x) = s.loseArbitration cls ((lineBits cls s.start.cardId st).take n ++ [false])) ∧
    (¬ CanLose (lineBits cls s.start.cardId st) n →
      s.readBack cls st n (!x) = s.abortFrame cls ((lineBits cls s.start.cardId st).take n ++ [!x])) := by
  obtain ⟨same, -⟩ | ⟨same, -⟩ | ⟨-, ⟨low, high, rfl⟩, lost⟩ | ⟨-, keeps, aborted⟩ := State.readBack_cases cls st n x (!x) s own
  · exact absurd same (Bool.not_ne_self x)
  · exact absurd same (Bool.not_ne_self x)
  · exact ⟨fun _ => lost, fun keeps => absurd ⟨low, high, own⟩ keeps⟩
  · refine ⟨fun ⟨low, high, one⟩ => absurd ⟨low, high, ?_⟩ keeps, fun _ => aborted⟩
    exact Option.some.inj (own.symm.trans one)

/-! ### The rows that name a difference (R59, R60) -/

theorem exec_arbitrationLost_at (cls : FrameClass) (st : Statuses) (sent n : Nat) (s : State)
    (sending : s.bus.framer = .sending cls st sent) (place : lossPlace (lineBits cls s.start.cardId st) sent = some n) :
    exec .arbitrationLost s = .next (s.loseArbitration cls ((lineBits cls s.start.cardId st).take n ++ [false])) := by
  simp only [exec, execArbitrationLost, sending, place]

theorem exec_arbitrationLost_nowhere (cls : FrameClass) (st : Statuses) (sent : Nat) (s : State)
    (sending : s.bus.framer = .sending cls st sent) (place : lossPlace (lineBits cls s.start.cardId st) sent = none) :
    exec .arbitrationLost s = .next s := by
  simp only [exec, execArbitrationLost, sending, place]

theorem exec_abort_startBit (cls : FrameClass) (st : Statuses) (s : State) (sending : s.bus.framer = .sending cls st 0) :
    exec .abort s = .next (s.abortFrame cls []) := by
  simp only [exec, execAbort, sending, if_true]

theorem exec_abort_at (cls : FrameClass) (st : Statuses) (sent n : Nat) (x : Bool) (s : State)
    (sending : s.bus.framer = .sending cls st sent) (begun : 0 < sent)
    (place : abortPlace (lineBits cls s.start.cardId st) sent = some n) (bit : (lineBits cls s.start.cardId st)[n]? = some x) :
    exec .abort s = .next (s.abortFrame cls ((lineBits cls s.start.cardId st).take n ++ [!x])) := by
  simp only [exec, execAbort, sending, if_neg (Nat.ne_of_gt begun), place, List.getD_eq_getElem?_getD, bit, Option.getD_some]

/-- Settles O22: the difference lies where the row or the bit puts it, and what it counts and hands back is that of its kind. -/
theorem lostAndAbortedFramesAreHandedBack : Obligations.LostAndAbortedFramesAreHandedBack := by
  intro cls st sent s sending short own canLose sender lost aborted abortedAt
  have handed : s.sender.raise (handedBack s.view.draining cls) = sender := by
    refine (Sender.raise_handedBack s.view.draining cls s.sender).trans ?_
    cases cls <;> rfl
  have loses : ∀ taken, s.loseArbitration cls taken = lost taken := fun taken => by
    change _ = ({ s with bus := _, sender := sender } : State)
    rw [← handed]
    rfl
  have counts : ∀ framer, (s.countAbort cls).setFramer framer = aborted framer := fun framer => by
    by_cases few : s.bus.abortRun + 1 < 16
    · rw [State.countAbort_few cls s few, handed]
      exact (if_pos few).symm
    · rw [State.countAbort_mutes cls s few, handed]
      exact (if_neg few).symm
  have aborts : ∀ n x, own[n]? = some x → s.abortFrame cls (own.take n ++ [!x]) = abortedAt n x := fun n x bit => by
    rw [State.abortFrame, State.hear_differs cls s.start.cardId st n x _ bit]
    exact counts _
  refine ⟨?arbitrationLost, ?noneLeft, ?startBit, ?abort, ?readBack⟩
  case arbitrationLost =>
    intro n ahead lose first
    rw [exec_arbitrationLost_at cls st sent n s sending (lossPlace_eq_some own sent n ahead lose first), ← loses]
  case noneLeft =>
    exact fun no => exec_arbitrationLost_nowhere cls st sent s sending (lossPlace_eq_none own sent no)
  case startBit =>
    rintro rfl
    rw [exec_abort_startBit cls st s sending, ← counts (.receiving true [])]
    rfl
  case abort =>
    intro begun n x ahead bit keeps first
    have place := abortPlace_eq_some own sent n ahead (List.getElem?_eq_some_iff.1 bit).1 keeps first
    rw [exec_abort_at cls st sent n x s sending begun place bit, ← aborts n x bit]
  case readBack =>
    intro receives gap
    refine ⟨fun m more => ?_, fun n x rest ahead bit => ?_⟩
    · rw [exec_frameReceived_sending gap cls st sent _ s receives sending, State.takeBits_agree cls st sent m s sending more]
      rfl
    · have inside : n < 48 := lineBits_length cls s.start.cardId st ▸ (List.getElem?_eq_some_iff.1 bit).1
      obtain ⟨loss, abort⟩ := State.readBack_differs cls st n x (s.setFramer (.sending cls st n)) bit
      rw [exec_frameReceived_sending gap cls st sent _ s receives sending,
        State.takeBits_upTo cls st sent n (!x) rest s sending ahead inside]
      by_cases lose : canLose n
      · rw [if_pos lose, loss lose, ← loses]
        rfl
      · rw [if_neg lose, abort lose, State.abortFrame_setFramer, ← aborts n x bit]
        rfl

end Sys2Proof.Machine
end

section
/-! The entry to SERVE at the listen deadline (R73, R75, R111, R136, R173, R174): what it makes of every block, with the SWEEP and the
JOINED record in either order. -/

namespace Sys2Proof.Machine

/-! ### The Journal -/

/-- One append counts a lost record exactly where the ring is full (R163). -/
theorem Journal.append_lost (x : JournalRecord) (j : Journal) (size : j.size ≤ 64) :
    (j.append x).lost = if j.size = 64 then satInc j.lost else j.lost := by
  obtain ⟨-, lost, -⟩ := j.append_records x size
  have held : j.records.length = j.size := by simp [Journal.records, Journal.size]
  have small := j.lost.isLt
  apply BitVec.eq_of_toNat_eq
  rw [lost, held]
  split
  · next full => rw [satInc_toNat, full]
  · next room =>
    have none : j.size + 1 - 64 = 0 := by omega
    rw [none]
    omega

/-- `k` is `j` with the record `x` appended and the open flag raised if `opens` says so, in either order (log 8). -/
def Journal.Joins (x : JournalRecord) (opens : Bool) (j k : Journal) : Prop :=
  k = ({ j with episodeOpen := j.episodeOpen || opens } : Journal).append x ∨
    k = { j.append x with episodeOpen := j.episodeOpen || opens }

/-- Both orders come to the same records, lost count and flag. -/
theorem Journal.Joins.effect {x : JournalRecord} {opens : Bool} {j k : Journal} (h : Journal.Joins x opens j k) :
    k.newest = some x ∧ k.episodeOpen = (j.episodeOpen || opens) ∧
      (j.size ≤ 64 → k.records = (j.records ++ [x]).drop (j.size + 1 - 64) ∧
        k.lost = if j.size = 64 then satInc j.lost else j.lost) := by
  have appended : ∀ i : Journal, i.size ≤ 64 → (i.append x).records = (i.records ++ [x]).drop (i.size + 1 - 64) := fun i size => by
    have held : i.records.length = i.size := by simp [Journal.records, Journal.size]
    rw [(i.append_records x size).1, held]
  rcases h with rfl | rfl
  · exact ⟨Journal.append_newest _ _, Journal.append_flag _ _, fun size => ⟨appended _ size, Journal.append_lost x _ size⟩⟩
  · exact ⟨Journal.append_newest x j, rfl, fun size => ⟨appended j size, Journal.append_lost x j size⟩⟩

/-- With no episode to open the Journal is as after the one append. -/
theorem Journal.Joins.append_eq {x : JournalRecord} {j k : Journal} (h : Journal.Joins x false j k) : k = j.append x := by
  rcases h with rfl | rfl
  · rw [Bool.or_false]
  · rw [Bool.or_false, ← Journal.append_flag x j]

/-! ### The entry to SERVE -/

/-- The Repair Engine at the entry to SERVE: a warm start places a SWEEP, which is an entry made (R111, R122, R124). -/
def Engine.joined (now : Nat) (kind : StartKind) (g : Engine) : Engine :=
  match kind with
  | .cold => g
  | .warm => { g with episode := g.openedEpisode now, sweep := some ⟨none⟩ }

/-- Does the entry to SERVE open an episode? -/
def Engine.joinOpens (kind : StartKind) (g : Engine) : Bool := kind == .warm && g.opens

theorem Engine.joined_frame (now : Nat) (kind : StartKind) (g : Engine) :
    (g.joined now kind).urgent = g.urgent ∧ (g.joined now kind).calm = g.calm ∧ (g.joined now kind).build = g.build ∧
      (g.joined now kind).job = g.job ∧ (g.joined now kind).completed = g.completed ∧
      (g.joined now kind).discarded = g.discarded := by
  cases kind <;> exact ⟨rfl, rfl, rfl, rfl, rfl, rfl⟩

theorem Engine.atRest_iff (g : Engine) : g.atRest = true ↔ g.job = none ∧ g.worklistLength = 0 := by
  simp [Engine.atRest]

theorem State.placeSweep_eq (s : State) : s.placeSweep =
    { s with
      engine := s.engine.joined s.clock.now .warm
      journal := { s.journal with episodeOpen := s.journal.episodeOpen || s.engine.opens } } := by
  rw [State.placeSweep, State.entryMade_eq]
  rfl

/-- The JOINED record of a part that enters SERVE now (R174). -/
def State.joinedRecord (s : State) : JournalRecord := ⟨.joined s.start.kind s.othersHeard, s.clock.timeBase⟩

/-- The entry to SERVE, block by block, for a cold and for a warm start and with either order of SWEEP and JOINED (R173, R174). -/
theorem State.enterServe_eq (s : State) : ∃ (k : Journal) (orders : Nat),
    s.journal.Joins s.joinedRecord (s.engine.joinOpens s.start.kind) k ∧
    s.enterServe = { s with
      start := { s.start with phase := .serve }
      lookup := { s.lookup with dropAll := true }
      sender := { s.sender with
        beaconDue := true
        beaconTimer := some (s.clock.now + 1000 * s.start.settings.beaconInterval) }
      engine := s.engine.joined s.clock.now s.start.kind
      journal := k
      model := { s.model with ordersMade := orders } } := by
  unfold State.enterServe
  dsimp only
  split
  · next cold =>
    have kind : s.start.kind = .cold := cold
    have rest : s.engine.joined s.clock.now s.start.kind = s.engine := by rw [kind]; rfl
    have closed : s.engine.joinOpens s.start.kind = false := by rw [kind]; rfl
    refine ⟨s.journal.append s.joinedRecord, s.model.ordersMade, .inr ?_, ?_⟩
    · rw [closed, Bool.or_false, ← Journal.append_flag s.joinedRecord s.journal]
    · rw [rest]
      rfl
  · next warm =>
    have kind : s.start.kind = .warm := warm
    have swept : s.engine.joined s.clock.now s.start.kind = s.engine.joined s.clock.now .warm := by rw [kind]
    have opens : s.engine.joinOpens s.start.kind = s.engine.opens := by rw [kind]; rfl
    rw [swept, opens]
    split
    · exact ⟨_, s.model.ordersMade + 1, .inl rfl, by rw [State.placeSweep_eq]; rfl⟩
    · refine ⟨_, s.model.ordersMade + 1, .inr rfl, ?_⟩
      rw [State.placeSweep_eq, ← Journal.append_flag s.joinedRecord s.journal]
      rfl

/-- Settles O57: block by block as `State.enterServe_eq` gives it, from the time the deadline is reached. -/
theorem listenDeadlineEntersServe : Obligations.ListenDeadlineEntersServe := by
  intro deadline s listening
  have run : exec .listenDeadline s = .next (s.advanceTo deadline).enterServe := by
    simp only [exec, execListenDeadline, listening]
  obtain ⟨k, orders, joins, eq⟩ := (s.advanceTo deadline).enterServe_eq
  obtain ⟨newest, flag, records⟩ := joins.effect
  obtain ⟨urgent, calm, build, job, completed, discarded⟩ :=
    s.engine.joined_frame (s.advanceTo deadline).clock.now s.start.kind
  rw [eq] at run
  refine ⟨_, run, rfl, rfl, rfl, ?sender, ⟨newest, ?cold, records⟩, ?episode, ?flag, ?sweep, urgent, calm, build, job, completed,
    discarded, rfl, rfl, rfl, rfl, rfl, rfl, rfl, rfl⟩
  case sender =>
    rw [← State.advanceTo_now]
    rfl
  case cold =>
    intro cold
    have closed : s.engine.joinOpens s.start.kind = false := by rw [cold]; rfl
    exact Journal.Joins.append_eq (closed ▸ joins)
  case episode =>
    change (s.engine.joined (s.advanceTo deadline).clock.now s.start.kind).episode = _
    rw [State.advanceTo_now]
    cases s.start.kind with
    | cold => rfl
    | warm =>
      change s.engine.openedEpisode _ = _
      unfold Engine.openedEpisode
      cases s.engine.episode with
      | some e => rfl
      | none => simp only [Engine.atRest_iff]
  case flag =>
    rw [flag, Engine.joinOpens, Engine.opens, Engine.atRest, Bool.and_assoc, Bool.and_assoc]
    rfl
  case sweep =>
    change (s.engine.joined (s.advanceTo deadline).clock.now s.start.kind).sweep = _
    cases s.start.kind <;> rfl

end Sys2Proof.Machine
end

section
/-! The operations and commands that leave the sending side as it is, one lemma each: those of the Repair Engine and the Lookup Unit, and
those of the table port but for DRAIN and UNDRAIN. -/

namespace Sys2Proof.Machine

variable {s t : State}

namespace State

variable (s : State)

/-! ### Shared operations -/

@[simp] theorem entryMade_sender : s.entryMade.sender = s.sender := s.entryMade_same.sender

@[simp] theorem startSettling_sender : s.startSettling.sender = s.sender := by
  unfold startSettling; split <;> rfl

@[simp] theorem completeJob_sender : s.completeJob.sender = s.sender := startSettling_sender _

/-! ### Groups and the Repair Engine -/

@[simp] theorem handOutcome_sender (g : GroupNo) (old new : Mode) (moved : Nat) :
    (s.handOutcome g old new moved).sender = s.sender := by
  simp only [handOutcome, withEngine_sender]
  split <;> split <;> rfl

@[simp] theorem reconcileGroup_sender (g : GroupNo) (snapshot : List Uplink) : (s.reconcileGroup g snapshot).sender = s.sender := by
  unfold reconcileGroup
  split <;> simp

@[simp] theorem installGroup_sender (g : GroupNo) (r : Record) (snapshot : List Uplink) :
    (s.installGroup g r snapshot).sender = s.sender := by simp [installGroup]

@[simp] theorem releaseGroup_sender (g : GroupNo) : (s.releaseGroup g).sender = s.sender := by simp [releaseGroup]

@[simp] theorem walkOn_sender (job : Job) (position : Option GroupNo) : (s.walkOn job position).sender = s.sender := by
  unfold walkOn
  split <;> simp

@[simp] theorem suspend_sender (job : Job) (position : GroupNo) : (s.suspend job position).sender = s.sender := by
  unfold suspend
  split
  · split <;> rfl
  all_goals rfl

@[simp] theorem boundary_sender (job : Job) (position : GroupNo) : (s.boundary job position).sender = s.sender := by
  unfold boundary
  split <;> simp

@[simp] theorem begin_sender (taken : Taken) : (s.begin taken).sender = s.sender := by
  cases taken with
  | build g => simp only [State.begin, beginBuild]; split <;> simp
  | urgent w => simp [State.begin]
  | sweep e => simp [State.begin]
  | calm w => simp [State.begin]

/-! ### The table port -/

@[simp] theorem respond_sender (c : StatusCode) (data : List Byte) : (s.respond c data).sender = s.sender := rfl

@[simp] theorem putPending_sender (g : GroupNo) (k : PendingKind) : (s.putPending g k).sender = s.sender := by
  unfold putPending
  split <;> simp

/-- A command that comes in on the port does to the sending side what its effect does, or nothing. -/
theorem takeCommand_sender_of (inPhase : Bool) (effect : State → State) (h : (effect s).sender = s.sender) :
    (s.takeCommand inPhase effect).sender = s.sender := by
  rcases s.takeCommand_cases inPhase effect with ⟨-, -, e⟩ | ⟨-, -, e⟩ | ⟨-, e⟩ | ⟨-, e⟩ <;> rw [e]
  · exact h
  · rfl

end State

/-! ### The commands -/

theorem execLightFall_sender (p : Port) (h : execLightFall p s = .next t) : t.sender = s.sender := by
  obtain rfl := Host.Outcome.next.inj h
  dsimp only
  split
  · split <;> rfl
  · rfl

theorem execLightRise_sender (p : Port) (h : execLightRise p s = .next t) : t.sender = s.sender := by
  obtain rfl := Host.Outcome.next.inj h
  dsimp only
  split
  · rfl
  · split <;> rfl

theorem execArbiterTake_sender (h : execArbiterTake s = .next t) : t.sender = s.sender := by
  obtain rfl := Host.Outcome.next.inj h
  split
  · rfl
  · split <;> simp

theorem execReconcile_sender (time : SnapshotTime) (h : execReconcile time s = .next t) : t.sender = s.sender := by
  obtain rfl := Host.Outcome.next.inj h
  split
  · rfl
  · split <;> simp

theorem execSettleDeadline_sender (h : execSettleDeadline s = .next t) : t.sender = s.sender := by
  obtain rfl := Host.Outcome.next.inj h
  split
  · rfl
  · split
    · rfl
    · split <;> rfl

/-- A command that comes in on the port, where its effect leaves the sending side as it is. -/
theorem takeCommand_next_sender {inPhase : Bool} {effect : State → State}
    (h : Host.Outcome.next (s.takeCommand inPhase effect) = (.next t : Host.Outcome State Fault Refusal))
    (e : (effect s).sender = s.sender) : t.sender = s.sender :=
  Host.Outcome.next.inj h ▸ State.takeCommand_sender_of s inPhase effect e

theorem execCommit_sender (b0 b1 : Byte) (h : execCommit b0 b1 s = .next t) : t.sender = s.sender := by
  refine takeCommand_next_sender h ?_
  split
  · rfl
  · split <;> simp

theorem execRelease_sender (b0 b1 : Byte) (h : execRelease b0 b1 s = .next t) : t.sender = s.sender := by
  refine takeCommand_next_sender h ?_
  split <;> simp

/-- Of the commands that leave the face as it is, the beacon timer's expiry alone acts on the sending side (R73). -/
theorem exec_quiet_sender (c : Instr) (quiet : c.quiet = true) (other : c ≠ .beaconTimerExpiry) (h : exec c s = .next t) :
    t.sender = s.sender := by
  cases c with
  | beaconTimerExpiry => exact absurd rfl other
  | lightFall p => exact execLightFall_sender p h
  | lightRise p => exact execLightRise_sender p h
  | arbiterTake => exact execArbiterTake_sender h
  | reconcile time => exact execReconcile_sender time h
  | installation => obtain rfl := Host.Outcome.next.inj h; split <;> simp
  | settleDeadline => exact execSettleDeadline_sender h
  | lookupRequest => obtain rfl := Host.Outcome.next.inj h; split <;> rfl
  | answer => obtain rfl := Host.Outcome.next.inj h; split <;> rfl
  | dropUplink => obtain rfl := Host.Outcome.next.inj h; split <;> rfl
  | dropGroup => obtain rfl := Host.Outcome.next.inj h; split <;> rfl
  | dropAll => obtain rfl := Host.Outcome.next.inj h; split <;> rfl
  | commit b0 b1 => exact execCommit_sender b0 b1 h
  | release b0 b1 => exact execRelease_sender b0 b1 h
  | unknownCommand byte =>
    obtain rfl := Host.Outcome.next.inj h
    split
    · rfl
    · exact s.takeCommand_sender_of _ _ rfl
  | status | stageClear | stageMember | stageOptions | readGroup | readSpread | readView | readCards | readJournal | readCounters
  | warmReset => exact takeCommand_next_sender h rfl
  | _ => cases quiet

end Sys2Proof.Machine
end

section
/-! The law of the sending side (R71, R74, R77, R155): what keeps it, and that every bit of the line does. -/

namespace Sys2Proof.Machine

variable {s t r : State}

/-! ### What keeps the law -/

/-- As the law reads the sending side, all stays but that the rejoin mark may be cleared (R81) and withdraw-due may be raised while
draining (R74, R80). -/
structure State.KeepsSender (s t : State) : Prop where
  start : t.start = s.start
  draining : t.view.draining = s.view.draining
  history : t.sender.history = s.sender.history
  rejoin : t.sender.rejoin = true → s.sender.rejoin = true
  withdraw : t.sender.withdrawDue = true → s.sender.withdrawDue = true ∨ s.view.draining = true

theorem State.KeepsSender.of_sender (start : t.start = s.start) (draining : t.view.draining = s.view.draining)
    (sender : t.sender = s.sender) : s.KeepsSender t where
  start := start
  draining := draining
  history := congrArg Sender.history sender
  rejoin := by rw [sender]; exact id
  withdraw := by rw [sender]; exact .inl

theorem State.KeepsSender.refl (s : State) : s.KeepsSender s := .of_sender rfl rfl rfl

theorem State.KeepsSender.trans (a : s.KeepsSender t) (b : t.KeepsSender r) : s.KeepsSender r where
  start := b.start.trans a.start
  draining := b.draining.trans a.draining
  history := b.history.trans a.history
  rejoin := fun h => a.rejoin (b.rejoin h)
  withdraw := fun h => (b.withdraw h).elim a.withdraw fun k => .inr (a.draining ▸ k)

/-- A change beforehand that leaves the sending side as it is makes no difference. -/
theorem State.KeepsSender.before (h : t.KeepsSender r) (start : t.start = s.start) (draining : t.view.draining = s.view.draining)
    (sender : t.sender = s.sender) : s.KeepsSender r :=
  (State.KeepsSender.of_sender start draining sender).trans h

/-- An event of the entries leaves the sending side as it is. -/
theorem State.KeepsSender.of_same (h : s.SameButEntries t) : s.KeepsSender t := .of_sender h.start h.draining h.sender

theorem State.SenderLaw.of_keeps (law : s.SenderLaw) (h : s.KeepsSender t) : t.SenderLaw where
  drainRejoin := fun ⟨draining, rejoin⟩ => law.drainRejoin ⟨h.draining ▸ draining, h.rejoin rejoin⟩
  withdraw := fun due => h.draining ▸ (h.withdraw due).elim law.withdraw id
  history := by rw [h.history, h.start]; exact law.history
  quiet := fun loading => by
    rw [State.isLoading, h.start] at loading
    rw [h.history]
    exact law.quiet loading

/-! ### Due flags -/

/-- Withdraw-due is raised only while draining (R74, R80). -/
theorem State.raiseDue_keepsSender (f : FrameClass) (s : State) (h : f = .withdraw → s.view.draining = true) :
    s.KeepsSender (s.raiseDue f) := by
  cases f with
  | withdraw => exact ⟨rfl, rfl, rfl, id, fun _ => .inr (h rfl)⟩
  | _ => exact ⟨rfl, rfl, rfl, id, .inl⟩

/-- Only while draining is a frame handed back as withdraw-due (R80). -/
theorem State.handBack_keepsSender (cls : FrameClass) (s : State) : s.KeepsSender (s.handBack cls) := by
  refine State.raiseDue_keepsSender _ s fun withdraw => ?_
  unfold handedBack at withdraw
  split at withdraw
  · by_contra draining
    rw [if_neg draining] at withdraw
    cases withdraw
  · next other => exact absurd withdraw other

/-- No change of a port's status asks for WITHDRAW (R72). -/
theorem dueFor_ne_withdraw (old new : PortStatus) : dueFor old new ≠ some .withdraw := by
  cases old <;> cases new <;> simp [dueFor]

theorem State.handStatus_keepsSender (p : Port) (old : PortStatus) (s : State) : s.KeepsSender (s.handStatus p old) := by
  unfold State.handStatus
  split
  · exact .refl s
  · refine .trans ?_ (.of_same (State.refind_same _ _))
    split
    · next f due => exact s.raiseDue_keepsSender f fun withdraw => absurd (withdraw ▸ due) (dueFor_ne_withdraw _ _)
    · exact .refl s

theorem State.decayPort_keepsSender (p : Port) (s : State) : s.KeepsSender (s.decayPort p) := by
  rw [State.decayPort_eq]
  exact (State.handStatus_keepsSender p _ (s.setMonitor p _)).before rfl rfl rfl

theorem State.foldl_decayPort_keepsSender (ps : List Port) (s : State) : s.KeepsSender (ps.foldl State.decayPort s) := by
  induction ps generalizing s with
  | nil => exact .refl s
  | cons p ps ih => exact (s.decayPort_keepsSender p).trans (ih _)

/-! ### What is heard -/

theorem State.framingError_keepsSender (aborted : Bool) (s : State) : s.KeepsSender (s.framingError aborted) := by
  cases aborted <;> exact .of_sender rfl rfl rfl

theorem State.crcError_keepsSender (aborted : Bool) (s : State) : s.KeepsSender (s.crcError aborted) := by
  cases aborted <;> exact .of_sender rfl rfl rfl

theorem State.dispose_keepsSender (card : CardId) (cls : FrameClass) (st : Statuses) (s : State) :
    s.KeepsSender (s.dispose card cls st) := by
  unfold State.dispose
  dsimp only
  split
  · split <;> exact .of_sender rfl rfl rfl
  · exact (State.KeepsSender.of_same (State.applyFrame_same _ _ _ _)).before rfl rfl rfl

theorem State.judge_keepsSender (aborted : Bool) (bits : BitVec 48) (s : State) : s.KeepsSender (s.judge aborted bits) := by
  unfold State.judge
  split
  · exact s.framingError_keepsSender aborted
  · split
    · exact s.crcError_keepsSender aborted
    · exact s.dispose_keepsSender _ _ _

theorem State.setFramer_keepsSender (f : Framer) (s : State) : s.KeepsSender (s.setFramer f) := .of_sender rfl rfl rfl

theorem State.hear_keepsSender (aborted : Bool) (taken : List Bool) (s : State) : s.KeepsSender (s.hear aborted taken) := by
  rcases s.hear_cases aborted taken with ⟨-, e⟩ | ⟨-, -, e⟩ | ⟨-, -, e⟩ <;> rw [e]
  · exact (s.setFramer_keepsSender _).trans (State.framingError_keepsSender _ _)
  · exact s.setFramer_keepsSender _
  · exact (s.setFramer_keepsSender _).trans (State.judge_keepsSender _ _ _)

/-! ### What is sent -/

theorem State.loseArbitration_keepsSender (cls : FrameClass) (taken : List Bool) (s : State) :
    s.KeepsSender (s.loseArbitration cls taken) :=
  (State.handBack_keepsSender cls (s.withBus _)).before rfl rfl rfl

theorem State.countAbort_keepsSender (cls : FrameClass) (s : State) : s.KeepsSender (s.countAbort cls) := by
  unfold State.countAbort
  dsimp only
  have counted : s.KeepsSender ((s.withBus { s.bus with
      aborts := satInc s.bus.aborts, abortRun := s.bus.abortRun + 1 }).handBack cls) :=
    (State.handBack_keepsSender cls _).before rfl rfl rfl
  split
  · exact counted.trans (.of_sender rfl rfl rfl)
  · exact counted

theorem State.abortFrame_keepsSender (cls : FrameClass) (taken : List Bool) (s : State) : s.KeepsSender (s.abortFrame cls taken) :=
  (s.countAbort_keepsSender cls).trans (State.hear_keepsSender _ _ _)

/-- A completed frame clears the rejoin mark unless its class is WITHDRAW (R81). -/
theorem State.completeFrame_keepsSender (cls : FrameClass) (s : State) : s.KeepsSender (s.completeFrame cls) where
  start := rfl
  draining := rfl
  history := rfl
  rejoin := fun h => by
    change (if cls = .withdraw then s.sender.rejoin else false) = true at h
    split at h
    · exact h
    · cases h
  withdraw := .inl

theorem State.readBack_keepsSender (cls : FrameClass) (st : Statuses) (sent : Nat) (b : Bool) (s : State) :
    s.KeepsSender (s.readBack cls st sent b) := by
  cases own : (lineBits cls s.start.cardId st)[sent]? with
  | none =>
    simp only [State.readBack, own]
    exact .refl s
  | some x =>
    rcases s.readBack_cases cls st sent x b own with ⟨-, -, e⟩ | ⟨-, -, e⟩ | ⟨-, -, e⟩ | ⟨-, -, e⟩ <;> rw [e]
    · exact s.setFramer_keepsSender _
    · exact s.completeFrame_keepsSender cls
    · exact s.loseArbitration_keepsSender cls _
    · exact s.abortFrame_keepsSender cls _

/-! ### The start of a frame -/

/-- A permitted start leaves at most K times in the history, the oldest going where there are K (R77). -/
theorem recordStart_length_le {limit window now : Nat} {history : List Nat} (few : history.length ≤ limit)
    (permitted : permitsStart limit window now history = true) : (recordStart limit now history).length ≤ limit := by
  unfold recordStart
  rw [List.length_append, List.length_singleton]
  split
  · next room => exact room
  · next full =>
    cases history with
    | nil =>
      have room : 0 < limit := by simpa [permitsStart] using permitted
      exact absurd room full
    | cons oldest later => simpa using few

theorem State.SenderLaw.startFrame (law : s.SenderLaw) (may : s.mayStart = true) : s.startFrame.SenderLaw where
  drainRejoin := law.drainRejoin
  withdraw := fun due => by cases due
  history := recordStart_length_le law.history (Bool.and_eq_true_iff.1 may).2
  quiet := fun loading => by
    have running := State.running_of_isServe (State.mayStart_open may).2
    exact absurd loading (by rw [show s.startFrame.isLoading = s.isLoading from rfl, running]; exact Bool.false_ne_true)

theorem State.SenderLaw.startEdge (law : s.SenderLaw) (idle : Nat) : (s.startEdge idle).SenderLaw := by
  rcases s.startEdge_cases idle with ⟨-, e⟩ | ⟨-, may, e⟩ | ⟨-, -, e⟩ <;> rw [e]
  · exact law.of_keeps (s.setFramer_keepsSender _)
  · exact law.startFrame may
  · exact law.of_keeps (s.setFramer_keepsSender _)

/-- One bit of the line keeps the law. -/
theorem State.SenderLaw.takeBit (law : s.SenderLaw) (b : Bool) : (s.takeBit b).SenderLaw := by
  unfold State.takeBit
  split
  · exact law
  · split
    · exact law.of_keeps (s.setFramer_keepsSender _)
    · exact law.startEdge _
  · exact law.of_keeps (s.hear_keepsSender _ _)
  · exact law.of_keeps (s.readBack_keepsSender _ _ _ _)

theorem State.SenderLaw.takeBits (law : s.SenderLaw) (bits : List Bool) : (s.takeBits bits).SenderLaw := by
  induction bits generalizing s with
  | nil => exact law
  | cons b bits ih => exact ih (law.takeBit b)

end Sys2Proof.Machine
end

section
/-! The law of the sending side over every command. -/

namespace Sys2Proof.Machine

variable {s t : State}

/-! ### The commands of the bus -/

theorem execFrameReceived_senderLaw (gap : Nat) (bits : List Bool) (law : s.SenderLaw)
    (h : execFrameReceived gap bits s = .next t) : t.SenderLaw := by
  obtain rfl := Host.Outcome.next.inj h
  split
  · split
    · exact (law.startEdge _).takeBits bits
    · exact law.takeBits bits
    · exact law.takeBits bits
    · exact law
  · exact law

theorem execFrameStart_senderLaw (gap : Nat) (edge : Bool) (law : s.SenderLaw) (h : execFrameStart gap edge s = .next t) :
    t.SenderLaw := by
  obtain rfl := Host.Outcome.next.inj h
  split
  · split
    · split
      · exact law.startEdge _
      · split
        · next may => exact law.startFrame (Bool.and_eq_true_iff.1 may).1
        · exact law.of_keeps (s.setFramer_keepsSender _)
    all_goals exact law
  · exact law

theorem execArbitrationLost_keepsSender (h : execArbitrationLost s = .next t) : s.KeepsSender t := by
  obtain rfl := Host.Outcome.next.inj h
  split
  · dsimp only
    split
    · exact s.loseArbitration_keepsSender _ _
    · exact .refl s
  all_goals exact .refl s

theorem execAbort_keepsSender (h : execAbort s = .next t) : s.KeepsSender t := by
  obtain rfl := Host.Outcome.next.inj h
  split
  · dsimp only
    split
    · exact s.abortFrame_keepsSender _ _
    · split
      · exact s.abortFrame_keepsSender _ _
      · exact .refl s
  all_goals exact .refl s

theorem execFrameComplete_keepsSender (h : execFrameComplete s = .next t) : s.KeepsSender t := by
  obtain rfl := Host.Outcome.next.inj h
  split
  · exact s.completeFrame_keepsSender _
  all_goals exact .refl s

theorem execMuteTimerExpiry_keepsSender (h : execMuteTimerExpiry s = .next t) : s.KeepsSender t := by
  obtain rfl := Host.Outcome.next.inj h
  split
  · exact (State.raiseDue_keepsSender .beacon _ nofun).before rfl rfl rfl
  all_goals exact .refl s

theorem execBeaconTimerExpiry_keepsSender (h : execBeaconTimerExpiry s = .next t) : s.KeepsSender t := by
  obtain rfl := Host.Outcome.next.inj h
  split
  · exact ⟨rfl, rfl, rfl, id, .inl⟩
  · exact .refl s

theorem State.discardReception_keepsSender (receiving : Bool) (s : State) : s.KeepsSender (s.discardReception receiving) := by
  rw [State.discardReception_eq]
  exact .of_sender rfl rfl rfl

theorem execStuckLine_keepsSender (stretch : Nat) (receiving : Bool) (h : execStuckLine stretch receiving s = .next t) :
    s.KeepsSender t := by
  obtain rfl := Host.Outcome.next.inj h
  split
  · refine (s.discardReception_keepsSender receiving).trans ?_
    exact (State.KeepsSender.of_same (State.isolationStart_same _)).before rfl rfl rfl
  · exact .refl s

theorem execFaultRecovery_keepsSender (recessive : Nat) (h : execFaultRecovery recessive s = .next t) : s.KeepsSender t := by
  obtain rfl := Host.Outcome.next.inj h
  split
  · split
    · exact .refl s
    · exact (State.raiseDue_keepsSender .beacon _ nofun).before rfl rfl rfl
  all_goals exact .refl s

/-! ### The monitors and the view -/

theorem execLossTimerExpiry_keepsSender (p : Port) (h : execLossTimerExpiry p s = .next t) : s.KeepsSender t := by
  obtain rfl := Host.Outcome.next.inj h
  split
  · exact (State.handStatus_keepsSender p _ _).before rfl rfl rfl
  all_goals exact .refl s

theorem execReturnTimerExpiry_keepsSender (p : Port) (h : execReturnTimerExpiry p s = .next t) : s.KeepsSender t := by
  obtain rfl := Host.Outcome.next.inj h
  split
  · exact (State.handStatus_keepsSender p _ _).before rfl rfl rfl
  all_goals exact .refl s

theorem execDecayTick_keepsSender (h : execDecayTick s = .next t) : s.KeepsSender t := by
  obtain rfl := Host.Outcome.next.inj h
  split
  · exact .refl s
  · exact (State.foldl_decayPort_keepsSender _ _).before rfl rfl rfl

theorem execAdmissionDeadline_keepsSender (u : Uplink) (h : execAdmissionDeadline u s = .next t) : s.KeepsSender t := by
  obtain rfl := Host.Outcome.next.inj h
  split
  · exact (State.KeepsSender.of_same (State.moveEntry_same _ _ _)).before rfl rfl rfl
  all_goals exact .refl s

theorem execPresenceDeadline_keepsSender (c : CardId) (h : execPresenceDeadline c s = .next t) : s.KeepsSender t := by
  obtain rfl := Host.Outcome.next.inj h
  split
  · exact (State.KeepsSender.of_same (State.loseCard_same c _)).before rfl rfl rfl
  · exact .refl s

/-! ### DRAIN and UNDRAIN -/

/-- A command that comes in on the port keeps the law if its effect does. -/
theorem State.SenderLaw.takeCommand (law : s.SenderLaw) (inPhase : Bool) (effect : State → State) (h : (effect s).SenderLaw) :
    (s.takeCommand inPhase effect).SenderLaw := by
  have kept : ∀ port : TablePort, (s.withPort port).SenderLaw := fun port => law.of_keeps (.of_sender rfl rfl rfl)
  rcases s.takeCommand_cases inPhase effect with ⟨-, -, e⟩ | ⟨-, -, e⟩ | ⟨-, e⟩ | ⟨-, e⟩ <;> rw [e]
  · exact h
  · exact kept _
  · exact kept _
  · exact law

theorem State.setDraining_same (b : Bool) (s : State) :
    State.SameButEntries { s with view := { s.view with draining := b } } (s.setDraining b) :=
  State.refindAll_same _ _

theorem State.setDraining_sender (b : Bool) (s : State) : (s.setDraining b).sender = s.sender := (s.setDraining_same b).sender

/-- The draining flag replaced, with the sending side told and the command answered: the law asks nothing of the entries moved. -/
theorem State.SenderLaw.setDraining {b : Bool} {d : Sender}
    (law : State.SenderLaw { s with view := { s.view with draining := b }, sender := d }) :
    (((s.setDraining b).withSender d).respond .ok []).SenderLaw :=
  law.of_keeps ((State.KeepsSender.of_same (State.answered_effect d (s.setDraining_same b))).before rfl rfl rfl)

/-- DRAIN is refused while the rejoin mark is set, and raises withdraw-due with the draining flag set (R74, R155). -/
theorem execDrain_senderLaw (law : s.SenderLaw) (h : execDrain s = .next t) : t.SenderLaw := by
  obtain rfl := Host.Outcome.next.inj h
  refine law.takeCommand _ _ ?_
  split
  · exact law.of_keeps (.of_sender rfl rfl rfl)
  · next unmarked =>
    split
    · exact law.of_keeps (.of_sender rfl rfl rfl)
    · rw [State.raiseDue, State.setDraining_sender]
      exact State.SenderLaw.setDraining ⟨fun marked => unmarked marked.2, fun _ => rfl, law.history, law.quiet⟩

/-- UNDRAIN clears withdraw-due with the draining flag (R74, R156). -/
theorem execUndrain_senderLaw (law : s.SenderLaw) (h : execUndrain s = .next t) : t.SenderLaw := by
  obtain rfl := Host.Outcome.next.inj h
  refine law.takeCommand _ _ ?_
  dsimp only
  split
  · rw [State.setDraining_sender]
    exact State.SenderLaw.setDraining
      ⟨fun marked => Bool.false_ne_true marked.1, fun due => absurd due Bool.false_ne_true, law.history, law.quiet⟩
  · exact law.of_keeps (.of_sender rfl rfl rfl)

/-! ### The Start-up Loader -/

/-- At its reset values the sending side has no flag raised, no mark set and no start recorded (R71). -/
theorem State.SenderLaw.of_reset (sender : s.sender = Sender.reset) : s.SenderLaw where
  drainRejoin := by rw [sender]; exact fun marked => Bool.false_ne_true marked.2
  withdraw := by rw [sender]; exact fun due => absurd due Bool.false_ne_true
  history := by rw [sender]; exact Nat.zero_le _
  quiet := fun _ => by rw [sender]; rfl

theorem State.coldReset_senderLaw (s : State) : s.coldReset.SenderLaw := .of_reset rfl

theorem State.warmReset_senderLaw (s : State) : s.warmReset.SenderLaw := .of_reset rfl

/-- In LOADING the history is empty, so that the law holds of it in any phase and under any K (R71, R77). -/
theorem State.SenderLaw.of_loading (law : s.SenderLaw) (loading : s.isLoading = true) (draining : t.view.draining = s.view.draining)
    (sender : t.sender = s.sender) : t.SenderLaw := by
  have empty := law.quiet loading
  obtain ⟨drainRejoin, withdraw, -, -⟩ := law
  rw [← sender] at drainRejoin withdraw empty
  rw [← draining] at drainRejoin withdraw
  exact ⟨drainRejoin, withdraw, by rw [empty]; exact Nat.zero_le _, fun _ => empty⟩

theorem State.SenderLaw.beginLoad (law : s.SenderLaw) (loading : s.isLoading = true) (straps : CardId) :
    (s.beginLoad straps).SenderLaw := by
  unfold State.beginLoad
  split
  · exact law
  · exact law.of_loading loading rfl rfl

/-- A reset line released: the part was in LOADING while it was asserted (R168). -/
theorem State.SenderLaw.release (law : s.SenderLaw) (reset : s.ResetLaw) (held : s.pins.resetN = true ∨ s.pins.warmN = true)
    (x : Pins) (straps : CardId) : ((s.withPins x).beginLoad straps).SenderLaw := by
  have loading : s.isLoading = true := by rw [State.isLoading, reset held]
  exact State.SenderLaw.beginLoad (s := s.withPins x) (law.of_loading loading rfl rfl) loading straps

theorem execResetNAsserted_senderLaw (law : s.SenderLaw) (h : execResetNAsserted s = .next t) : t.SenderLaw := by
  obtain rfl := Host.Outcome.next.inj h
  split
  · exact law
  · exact State.coldReset_senderLaw _

theorem execResetNReleased_senderLaw (straps : CardId) (law : s.SenderLaw) (reset : s.ResetLaw)
    (h : execResetNReleased straps s = .next t) : t.SenderLaw := by
  obtain rfl := Host.Outcome.next.inj h
  split
  · next held => exact law.release reset (.inl held) _ straps
  · exact law

theorem execWarmNAsserted_senderLaw (law : s.SenderLaw) (h : execWarmNAsserted s = .next t) : t.SenderLaw := by
  obtain rfl := Host.Outcome.next.inj h
  dsimp only
  split
  · exact law
  · split
    · exact law.of_keeps (.of_sender rfl rfl rfl)
    · exact State.warmReset_senderLaw _

theorem execWarmNReleased_senderLaw (straps : CardId) (law : s.SenderLaw) (reset : s.ResetLaw)
    (h : execWarmNReleased straps s = .next t) : t.SenderLaw := by
  obtain rfl := Host.Outcome.next.inj h
  split
  · next held => exact law.release reset (.inr held) _ straps
  · exact law

theorem execChipSelectRelease_senderLaw (r : Deselect) (law : s.SenderLaw) (h : execChipSelectRelease r s = .next t) :
    t.SenderLaw := by
  obtain rfl := Host.Outcome.next.inj h
  have released :
      State.SenderLaw (if s.port.warmOrdered then s.releasePort.warmReset.beginLoad r.straps else s.releasePort) := by
    split
    · exact (State.warmReset_senderLaw _).beginLoad rfl _
    · exact law.of_keeps (.of_sender rfl rfl rfl)
  dsimp only
  split
  · exact released.of_keeps (.of_sender rfl rfl rfl)
  · exact released

theorem execLoadTimeout_senderLaw (law : s.SenderLaw) (h : execLoadTimeout s = .next t) : t.SenderLaw := by
  obtain rfl := Host.Outcome.next.inj h
  split
  · next phase => exact law.of_loading (by rw [State.isLoading, phase]) rfl rfl
  all_goals exact law

/-- The settings bring a new K in, to an empty history (R71, R77, R171). -/
theorem State.SenderLaw.finishLoading (law : s.SenderLaw) (loading : s.isLoading = true) (c : Settings)
    (noted : Option JournalBody) : (s.finishLoading c noted).SenderLaw := by
  rw [State.finishLoading_eq]
  exact law.of_loading loading rfl rfl

theorem execEndOfLoading_senderLaw (rom : RomRead) (law : s.SenderLaw) (h : execEndOfLoading rom s = .next t) :
    t.SenderLaw := by
  obtain rfl := Host.Outcome.next.inj h
  split
  · next phase => exact law.finishLoading (by rw [State.isLoading, phase]) _ _
  · next phase => exact law.finishLoading (by rw [State.isLoading, phase]) _ _
  all_goals exact law

/-- The entry to SERVE raises beacon-due and starts the beacon timer, which the law does not read (R173). -/
theorem execListenDeadline_senderLaw (law : s.SenderLaw) (h : execListenDeadline s = .next t) : t.SenderLaw := by
  obtain rfl := Host.Outcome.next.inj h
  split
  · next deadline _ =>
    obtain ⟨k, orders, -, eq⟩ := (s.advanceTo deadline).enterServe_eq
    rw [eq]
    exact ⟨law.drainRejoin, law.withdraw, law.history, fun loading => by cases loading⟩
  all_goals exact law

/-! ### Every command -/

theorem exec_quiet_keepsSender (c : Instr) (quiet : c.quiet = true) (h : exec c s = .next t) : s.KeepsSender t := by
  by_cases beacon : c = .beaconTimerExpiry
  · subst beacon
    exact execBeaconTimerExpiry_keepsSender h
  · obtain ⟨view, start, -⟩ := State.face_eq (exec_quiet_face c quiet h)
    exact .of_sender start (congrArg View.draining view) (exec_quiet_sender c quiet beacon h)

theorem exec_senderLaw (c : Instr) (reset : s.ResetLaw) (law : s.SenderLaw) (h : exec c s = .next t) : t.SenderLaw := by
  by_cases quiet : c.quiet = true
  · exact law.of_keeps (exec_quiet_keepsSender c quiet h)
  cases c with
  | lossTimerExpiry p => exact law.of_keeps (execLossTimerExpiry_keepsSender p h)
  | returnTimerExpiry p => exact law.of_keeps (execReturnTimerExpiry_keepsSender p h)
  | decayTick => exact law.of_keeps (execDecayTick_keepsSender h)
  | admissionDeadline u => exact law.of_keeps (execAdmissionDeadline_keepsSender u h)
  | presenceDeadline k => exact law.of_keeps (execPresenceDeadline_keepsSender k h)
  | frameReceived gap bits => exact execFrameReceived_senderLaw gap bits law h
  | frameStart gap edge => exact execFrameStart_senderLaw gap edge law h
  | arbitrationLost => exact law.of_keeps (execArbitrationLost_keepsSender h)
  | abort => exact law.of_keeps (execAbort_keepsSender h)
  | frameComplete => exact law.of_keeps (execFrameComplete_keepsSender h)
  | muteTimerExpiry => exact law.of_keeps (execMuteTimerExpiry_keepsSender h)
  | stuckLine stretch receiving => exact law.of_keeps (execStuckLine_keepsSender stretch receiving h)
  | faultRecovery recessive => exact law.of_keeps (execFaultRecovery_keepsSender recessive h)
  | drain => exact execDrain_senderLaw law h
  | undrain => exact execUndrain_senderLaw law h
  | chipSelectRelease r => exact execChipSelectRelease_senderLaw r law h
  | powerUp straps =>
    obtain rfl := Host.Outcome.next.inj h
    exact s.coldReset_senderLaw.beginLoad rfl straps
  | resetNAsserted => exact execResetNAsserted_senderLaw law h
  | resetNReleased straps => exact execResetNReleased_senderLaw straps law reset h
  | warmNAsserted => exact execWarmNAsserted_senderLaw law h
  | warmNReleased straps => exact execWarmNReleased_senderLaw straps law reset h
  | loadTimeout => exact execLoadTimeout_senderLaw law h
  | endOfLoading rom => exact execEndOfLoading_senderLaw rom law h
  | listenDeadline => exact execListenDeadline_senderLaw law h
  | _ => exact absurd rfl quiet

/-- Settles O25: every command keeps the law of the sending side, as does 1 µs with none waiting. -/
theorem senderLawIsKept : Obligations.SenderLawIsKept := by
  intro s t reset law h
  unfold step at h
  split at h
  · obtain rfl := Host.Outcome.next.inj h
    exact law.of_keeps (.of_sender rfl rfl rfl)
  · next c rest _ =>
    have before : (s.withPending rest).SenderLaw := law.of_keeps (.of_sender rfl rfl rfl)
    exact exec_senderLaw (s := s.withPending rest) c reset before h

end Sys2Proof.Machine
end

section
/-! Records and the tier choice (R89, R91, R94): the members of a record and the uplinks it names, and the first of the six cases. -/

namespace Sys2Proof.Machine

/-! ### Records -/

theorem Record.mem_members (r : Record) (i : MemberIdx) (seat : Seat) : (i, seat) ∈ r.members ↔ r.seats[i] = some seat := by
  simp [Record.members, Option.map_eq_some_iff]

theorem Record.members_ascending (r : Record) : (r.members.map fun m => m.1).Pairwise (· < ·) := by
  rw [List.pairwise_map, Record.members, List.pairwise_filterMap]
  refine (finRange_ascending 8).imp fun {i j} lt m hm n hn => ?_
  obtain ⟨_, -, rfl⟩ := Option.map_eq_some_iff.1 hm
  obtain ⟨_, -, rfl⟩ := Option.map_eq_some_iff.1 hn
  exact lt

/-- A record names its escape and its members' uplinks (R91). -/
theorem Record.mem_named (r : Record) (u : Uplink) :
    u ∈ r.named ↔ r.escape = some u ∨ ∃ (i : MemberIdx) (seat : Seat), r.seats[i] = some seat ∧ seat.uplink = u := by
  simp only [Record.named, List.mem_append, List.mem_map, Prod.exists, Record.mem_members, Option.mem_toList]
  exact or_comm

theorem Record.weight_of_seat {r : Record} {i : MemberIdx} {seat : Seat} (h : r.seats[i] = some seat) :
    r.weight i = seat.weight := by
  simp [Record.weight, h]

/-- The weight of a place, written out. -/
theorem Record.weight_eq (r : Record) :
    (fun i : MemberIdx => match r.seats[i] with | some seat => seat.weight | none => 0) = r.weight := by
  funext i
  unfold Record.weight
  cases r.seats[i] <;> rfl

/-! ### Admitted members (R94) -/

theorem Record.mem_admittedOf (r : Record) (t : Tier) (adm : Uplink → Bool) (i : MemberIdx) :
    i ∈ r.admittedOf t adm ↔ ∃ seat, r.seats[i] = some seat ∧ seat.tier = t ∧ adm seat.uplink = true := by
  simp [Record.admittedOf, Record.mem_members]

theorem Record.admittedOf_ascending (r : Record) (t : Tier) (adm : Uplink → Bool) :
    (r.admittedOf t adm).Pairwise (· < ·) :=
  r.members_ascending.sublist (List.filter_sublist.map _)

theorem Record.escapeAdmitted_iff (r : Record) (adm : Uplink → Bool) :
    r.escapeAdmitted adm = true ↔ ∃ e, r.escape = some e ∧ adm e = true := by
  unfold Record.escapeAdmitted
  cases r.escape <;> simp

/-- In a valid record every admitted member has a weight. -/
theorem Record.Valid.weight_pos {r : Record} (valid : r.Valid) {t : Tier} {adm : Uplink → Bool} {i : MemberIdx}
    (h : i ∈ r.admittedOf t adm) : 1 ≤ r.weight i := by
  obtain ⟨seat, place, -⟩ := (r.mem_admittedOf t adm i).1 h
  rw [Record.weight_of_seat place]
  exact (valid.weights _ ((r.mem_members i seat).2 place)).1

/-! ### The choice (R94) -/

section

variable (r : Record) (current : Mode) (adm : Uplink → Bool)

/-- The first case of R94: a record that is not revertive stays in tier 1 while it has a member there. -/
theorem tierChoice_stay (revertive : r.revertive = false) (mode : current = .tier1) (some : r.admittedOf .t1 adm ≠ []) :
    tierChoice r current adm = (.tier1, .members (r.admittedOf .t1 adm)) := by
  simp [tierChoice, revertive, mode, some]

/-- The other five cases of R94, where the first does not hold. -/
theorem tierChoice_fresh (fresh : ¬ (r.revertive = false ∧ current = .tier1 ∧ r.admittedOf .t1 adm ≠ [])) :
    tierChoice r current adm =
      if r.minLive ≤ (r.admittedOf .t0 adm).length then (.tier0, .members (r.admittedOf .t0 adm))
      else if r.admittedOf .t1 adm ≠ [] then (.tier1, .members (r.admittedOf .t1 adm))
      else if r.admittedOf .t0 adm ≠ [] then (.tier0Short, .members (r.admittedOf .t0 adm))
      else if r.escapeAdmitted adm = true then (.escape, .escape)
      else (.dark, .empty) := by
  have first : ¬ (!r.revertive && current == .tier1 && !(r.admittedOf .t1 adm).isEmpty) = true := by
    simpa [and_assoc] using fresh
  simp only [tierChoice, if_neg first]
  simp

/-- What the choice can be, with what each mode says of its set. -/
theorem tierChoice_cases :
    (tierChoice r current adm = (.tier1, .members (r.admittedOf .t1 adm)) ∧ r.admittedOf .t1 adm ≠ []) ∨
    (tierChoice r current adm = (.tier0, .members (r.admittedOf .t0 adm)) ∧ r.minLive ≤ (r.admittedOf .t0 adm).length) ∨
    (tierChoice r current adm = (.tier0Short, .members (r.admittedOf .t0 adm)) ∧ r.admittedOf .t0 adm ≠ [] ∧
      (r.admittedOf .t0 adm).length < r.minLive) ∨
    (tierChoice r current adm = (.escape, .escape) ∧ ∃ e, r.escape = some e ∧ adm e = true) ∨
    tierChoice r current adm = (.dark, .empty) := by
  by_cases stay : r.revertive = false ∧ current = .tier1 ∧ r.admittedOf .t1 adm ≠ []
  · exact .inl ⟨tierChoice_stay r current adm stay.1 stay.2.1 stay.2.2, stay.2.2⟩
  rw [tierChoice_fresh r current adm stay]
  split
  · next enough => exact .inr (.inl ⟨rfl, enough⟩)
  · next few =>
    split
    · next some => exact .inl ⟨rfl, some⟩
    · split
      · next some => exact .inr (.inr (.inl ⟨rfl, some, Nat.lt_of_not_le few⟩))
      · split
        · next escape => exact .inr (.inr (.inr (.inl ⟨rfl, (r.escapeAdmitted_iff adm).1 escape⟩)))
        · exact .inr (.inr (.inr (.inr rfl)))

end

/-- Settles O29: case by case, each of the later ones where the first does not hold. -/
theorem tierChoiceTakesTheFirstCase : Obligations.TierChoiceTakesTheFirstCase := by
  refine ⟨⟨rfl, rfl, rfl, rfl, rfl⟩, fun r current adm => ?_⟩
  intro a0 a1 case1 case2 case5
  have fresh : ¬ case1 → _ := tierChoice_fresh r current adm
  have empty : a1 = [] → ¬ case1 := fun h first => first.2.2 h
  refine ⟨fun h => tierChoice_stay r current adm h.1 h.2.1 h.2.2, fun first enough => ?_, fun first few some => ?_,
    fun few none some => ?_, fun few none none' escape => ?_, fun few none none' escape => ?_,
    r.mem_admittedOf .t0 adm, r.mem_admittedOf .t1 adm, r.admittedOf_ascending .t0 adm, r.admittedOf_ascending .t1 adm⟩
  · rw [fresh first, if_pos enough]
  · rw [fresh first, if_neg few, if_pos some]
  · rw [fresh (empty none), if_neg few, if_neg (not_not_intro none), if_pos some]
  · rw [fresh (empty none), if_neg few, if_neg (not_not_intro none), if_neg (not_not_intro none'),
      if_pos ((r.escapeAdmitted_iff adm).2 escape)]
  · rw [fresh (empty none), if_neg few, if_neg (not_not_intro none), if_neg (not_not_intro none'),
      if_neg (mt (r.escapeAdmitted_iff adm).1 escape)]

end Sys2Proof.Machine
end

section
/-! Quotas (R96): the rank of a member for an extra slot is a numbering of the set, so that as many members rank below the slots left
over as there are such slots. -/

namespace Sys2Proof.Machine

/-! ### Counting in lists -/

/-- A property that holds of all that another one takes, and of one place more. -/
theorem countP_lt_countP {α : Type} {p q : α → Bool} {l : List α} (imp : ∀ x ∈ l, p x = true → q x = true) {a : α}
    (mem : a ∈ l) (here : q a = true) (absent : p a = false) : l.countP p < l.countP q := by
  obtain ⟨front, back, rfl⟩ := List.append_of_mem mem
  have first : front.countP p ≤ front.countP q := List.countP_mono_left fun x hx => imp x (by simp [hx])
  have last : back.countP p ≤ back.countP q := List.countP_mono_left fun x hx => imp x (by simp [hx])
  simp only [List.countP_append, List.countP_cons, here, absent, if_true, Bool.false_eq_true, if_false]
  omega

theorem sum_map_add_indicator {α : Type} (f : α → Nat) (p : α → Bool) (l : List α) :
    (l.map fun i => f i + if p i = true then 1 else 0).sum = (l.map f).sum + l.countP p := by
  induction l with
  | nil => rfl
  | cons a l ih => simp only [List.map_cons, List.sum_cons, List.countP_cons, ih]; omega

/-- How often the members of a list without repeats occur in another one, taken together. -/
theorem sum_map_count_eq_countP {α : Type} [BEq α] [LawfulBEq α] (l s : List α) (nodup : s.Nodup) (p : α → Bool)
    (members : ∀ x ∈ l, p x = true ↔ x ∈ s) : (s.map fun a => l.count a).sum = l.countP p := by
  induction l with
  | nil => simp
  | cons x l ih =>
    have here := members x List.mem_cons_self
    simp only [List.count_cons, List.countP_cons, sum_map_add_indicator, ih fun y hy => members y (List.mem_cons_of_mem _ hy)]
    have once : s.countP (fun a => x == a) = s.count x := List.countP_congr fun a _ => by rw [beq_iff_eq, beq_iff_eq, eq_comm]
    rw [once]
    by_cases mem : x ∈ s
    · rw [List.count_eq_one_of_mem nodup mem, if_pos (here.2 mem)]
    · rw [List.count_eq_zero_of_not_mem mem, if_neg (mt here.1 mem)]

/-- In a list without repeats under a strict total order, just `n` elements have fewer than `n` elements before them. -/
theorem countP_rank_lt {α : Type} (before : α → α → Bool) (irrefl : ∀ a, before a a = false)
    (trans : ∀ a b c, before a b = true → before b c = true → before a c = true) (l : List α) (nodup : l.Nodup)
    (total : ∀ a ∈ l, ∀ b ∈ l, a ≠ b → before a b = true ∨ before b a = true) (n : Nat) (few : n ≤ l.length) :
    (l.countP fun a => decide ((l.countP fun b => before b a) < n)) = n := by
  have mono : ∀ a ∈ l, ∀ b, before a b = true → (l.countP fun x => before x a) < l.countP fun x => before x b :=
    fun a mem b lt => countP_lt_countP (fun x _ h => trans x a b h lt) mem lt (irrefl a)
  have inj : (l.map fun a => l.countP fun x => before x a).Nodup := by
    refine List.Nodup.map_on (fun a ha b hb same => ?_) nodup
    by_contra ne
    rcases total a ha b hb ne with lt | lt
    · exact absurd (mono a ha b lt) (by omega)
    · exact absurd (mono b hb a lt) (by omega)
  have below : (l.map fun a => l.countP fun x => before x a) ⊆ List.range l.length := fun k hk => by
    obtain ⟨a, mem, rfl⟩ := List.mem_map.1 hk
    exact List.mem_range.2 (List.countP_lt_length_iff.2 ⟨a, mem, irrefl a⟩)
  have perm := (List.subperm_of_subset inj below).perm_of_length_le (by simp)
  have ranks := perm.countP_eq fun k => decide (k < n)
  rw [List.countP_map] at ranks
  refine ranks.trans ?_
  rw [← Nat.add_sub_cancel' few, List.range_add, List.countP_append, List.countP_eq_length.2 (by simp), List.length_range,
    List.countP_eq_zero.2 (by simp), Nat.add_zero]

/-! ### Quotas (R96) -/

section

variable (w : MemberIdx → Nat) (set : List MemberIdx)

/-- `j` comes before `i` for an extra slot: a larger remainder, or an equal one at a lower index (R96). -/
def extraBefore (j i : MemberIdx) : Bool :=
  decide (remQuota w set i < remQuota w set j) || (remQuota w set j == remQuota w set i && decide (j < i))

theorem extraRank_eq (i : MemberIdx) : extraRank w set i = set.countP fun j => extraBefore w set j i := rfl

theorem extraBefore_iff (j i : MemberIdx) : extraBefore w set j i = true ↔
    remQuota w set i < remQuota w set j ∨ (remQuota w set j = remQuota w set i ∧ j < i) := by
  simp [extraBefore]

theorem extraBefore_irrefl (i : MemberIdx) : extraBefore w set i i = false := by simp [extraBefore]

theorem extraBefore_trans (a b c : MemberIdx) (h : extraBefore w set a b = true) (k : extraBefore w set b c = true) :
    extraBefore w set a c = true := by
  simp only [extraBefore_iff, Fin.lt_def] at *
  omega

theorem extraBefore_total (a b : MemberIdx) (ne : a ≠ b) : extraBefore w set a b = true ∨ extraBefore w set b a = true := by
  simp only [extraBefore_iff, Fin.lt_def, ne_eq, Fin.ext_iff] at *
  omega

theorem extraRank_lt {i j : MemberIdx} (mem : i ∈ set) (h : extraBefore w set i j = true) :
    extraRank w set i < extraRank w set j :=
  countP_lt_countP (fun x _ lt => extraBefore_trans w set x i j lt h) mem h (extraBefore_irrefl w set i)

variable {w set}

theorem weight_le_totalWeight {i : MemberIdx} (mem : i ∈ set) : w i ≤ totalWeight w set :=
  List.single_le_sum (fun _ _ => Nat.zero_le _) _ (List.mem_map_of_mem mem)

theorem totalWeight_pos (some : set ≠ []) (pos : ∀ i ∈ set, 1 ≤ w i) : 0 < totalWeight w set := by
  obtain ⟨i, mem⟩ := List.exists_mem_of_ne_nil set some
  exact lt_of_lt_of_le (pos i mem) (weight_le_totalWeight mem)

/-- 64 times the weights of a set, divided by any total. -/
theorem sum_div_mod (total : Nat) (l : List MemberIdx) : 64 * (l.map w).sum =
    total * (l.map fun i => 64 * w i / total).sum + (l.map fun i => 64 * w i % total).sum := by
  induction l with
  | nil => rfl
  | cons i l ih =>
    have here := Nat.div_add_mod (64 * w i) total
    simp only [List.map_cons, List.sum_cons, Nat.mul_add] at ih ⊢
    omega

theorem sum_mod_lt {total : Nat} (pos : 0 < total) (l : List MemberIdx) (some : l ≠ []) :
    (l.map fun i => 64 * w i % total).sum < total * l.length := by
  induction l with
  | nil => exact absurd rfl some
  | cons i l ih =>
    have here := Nat.mod_lt (64 * w i) pos
    rw [List.map_cons, List.sum_cons, List.length_cons, Nat.mul_succ]
    by_cases last : l = []
    · subst last; simpa using here
    · have := ih last; omega

/-- The bases leave fewer slots than the set has members (R96). -/
theorem base_and_extra (some : set ≠ []) (pos : ∀ i ∈ set, 1 ≤ w i) :
    (set.map (baseQuota w set)).sum + extraSlots w set = 64 ∧ extraSlots w set < set.length := by
  have total := totalWeight_pos some pos
  have parts : 64 * totalWeight w set = totalWeight w set * (set.map (baseQuota w set)).sum +
      (set.map (remQuota w set)).sum := sum_div_mod _ _
  have rest : (set.map (remQuota w set)).sum < totalWeight w set * set.length := sum_mod_lt total set some
  have most : (set.map (baseQuota w set)).sum ≤ 64 := by
    refine Nat.le_of_mul_le_mul_left (c := totalWeight w set) ?_ total
    omega
  refine ⟨by unfold extraSlots; omega, Nat.lt_of_mul_lt_mul_left (a := totalWeight w set) ?_⟩
  rw [extraSlots, Nat.mul_sub]
  omega

/-- As many members have the one slot more as the bases leave slots (R96). -/
theorem countP_extra (some : set ≠ []) (nodup : set.Nodup) (pos : ∀ i ∈ set, 1 ≤ w i) :
    (set.countP fun i => decide (extraRank w set i < extraSlots w set)) = extraSlots w set := by
  simp only [extraRank_eq]
  exact countP_rank_lt (extraBefore w set) (extraBefore_irrefl w set) (extraBefore_trans w set) set nodup
    (fun a _ b _ => extraBefore_total w set a b) _ (base_and_extra some pos).2.le

/-- The quotas of a set add up to 64 (R96). -/
theorem quota_sum (some : set ≠ []) (nodup : set.Nodup) (pos : ∀ i ∈ set, 1 ≤ w i) : (set.map (quota w set)).sum = 64 := by
  have parts := sum_map_add_indicator (baseQuota w set) (fun i => decide (extraRank w set i < extraSlots w set)) set
  simp only [decide_eq_true_eq] at parts
  exact parts.trans ((congrArg _ (countP_extra some nodup pos)).trans (base_and_extra some pos).1)

/-- A quota is the base, or one more for a member that ranks below the slots left over. -/
theorem quota_eq_base_succ_iff (i : MemberIdx) :
    quota w set i = baseQuota w set i + 1 ↔ extraRank w set i < extraSlots w set := by
  unfold quota
  split <;> simp_all

theorem quota_eq_base_iff (i : MemberIdx) : quota w set i = baseQuota w set i ↔ ¬ extraRank w set i < extraSlots w set := by
  unfold quota
  split <;> simp_all

theorem quota_base_or_succ (i : MemberIdx) :
    quota w set i = baseQuota w set i ∨ quota w set i = baseQuota w set i + 1 := by
  unfold quota
  split <;> simp

/-- The base of a member is no larger in a larger set (R100). -/
theorem baseQuota_antitone {left : List MemberIdx} (sub : left.Sublist set) {i : MemberIdx} (mem : i ∈ left) (pos : 1 ≤ w i) :
    baseQuota w set i ≤ baseQuota w left i :=
  Nat.div_le_div_left ((sub.map w).sum_le_sum fun _ _ => Nat.zero_le _) (lt_of_lt_of_le pos (weight_le_totalWeight mem))

end

/-- Settles O26: the members with the one slot more are those that rank below the slots left over. -/
theorem quotasShareSixtyFourSlots : Obligations.QuotasShareSixtyFourSlots := by
  intro w set some nodup pos total base rem
  refine ⟨quota_sum some nodup pos, fun i _ => quota_base_or_succ i, ?_, fun i memi j memj extra plain => ?_⟩
  · have same : ∀ i ∈ set, decide (quota w set i = base i + 1) = decide (extraRank w set i < extraSlots w set) :=
      fun i _ => decide_eq_decide.2 (quota_eq_base_succ_iff i)
    rw [List.filter_congr same, ← List.countP_eq_length_filter, countP_extra some nodup pos, Nat.add_comm]
    exact (base_and_extra some pos).1
  · have low := (quota_eq_base_succ_iff i).1 extra
    have high := (quota_eq_base_iff j).1 plain
    have ne : i ≠ j := by rintro rfl; exact high low
    rcases extraBefore_total w set i j ne with first | first
    · rcases (extraBefore_iff w set i j).1 first with more | ⟨same, lower⟩
      · exact .inl more
      · exact .inr ⟨same.symm, lower⟩
    · exact absurd (extraRank_lt w set memj first) (by omega)

end Sys2Proof.Machine
end

section
/-! Home fill (R98): what the rounds hand to each member, and that at every slot the members still in the round are level but for the one
slot that the lower indexes already have. -/

namespace Sys2Proof.Machine

/-! ### Spreads as lists -/

theorem spreadOf_get (l : List Occupant) (k : Slot) : (spreadOf l)[k] = l.getD k.val .empty := by
  simp [spreadOf]

theorem spreadOf_toList (l : List Occupant) (full : l.length = 64) : (spreadOf l).toList = l := by
  refine List.ext_getElem (by simp [full]) fun k hk hl => ?_
  simp [spreadOf, hl]

/-! ### What a queue of members is owed -/

/-- The slots that a queue still owes a member. -/
def owed (q : List (MemberIdx × Nat)) (i : MemberIdx) : Nat := (q.map fun m => if m.1 = i then m.2 else 0).sum

/-- The slots that a queue still owes. -/
def totalOwed (q : List (MemberIdx × Nat)) : Nat := (q.map fun m => m.2).sum

/-- No member stays in the round with its quota used up. -/
def Positive (q : List (MemberIdx × Nat)) : Prop := ∀ m ∈ q, 1 ≤ m.2

/-- The queue after the member at its head has received a slot. -/
def passOn (m : MemberIdx × Nat) (rest : List (MemberIdx × Nat)) : List (MemberIdx × Nat) :=
  if m.2 ≤ 1 then rest else rest ++ [(m.1, m.2 - 1)]

theorem dealRound_cons (n : Nat) (m : MemberIdx × Nat) (rest : List (MemberIdx × Nat)) :
    dealRound (n + 1) (m :: rest) = .member m.1 :: dealRound n (passOn m rest) := rfl

theorem dealRound_nil (n : Nat) : dealRound n [] = [] := by cases n <;> rfl

theorem mem_passOn {m x : MemberIdx × Nat} {rest : List (MemberIdx × Nat)} (h : x ∈ passOn m rest) :
    x ∈ rest ∨ (1 < m.2 ∧ x = (m.1, m.2 - 1)) := by
  unfold passOn at h
  split at h
  · exact .inl h
  · next more =>
    rcases List.mem_append.1 h with old | new
    · exact .inl old
    · exact .inr ⟨Nat.lt_of_not_le more, List.mem_singleton.1 new⟩

theorem Positive.passOn {m : MemberIdx × Nat} {rest : List (MemberIdx × Nat)} (h : Positive (m :: rest)) :
    Positive (passOn m rest) := fun x hx => by
  rcases mem_passOn hx with old | ⟨more, rfl⟩
  · exact h x (List.mem_cons_of_mem _ old)
  · exact Nat.le_sub_one_of_lt more

theorem totalOwed_passOn (m : MemberIdx × Nat) (rest : List (MemberIdx × Nat)) (pos : 1 ≤ m.2) :
    totalOwed (passOn m rest) + 1 = totalOwed (m :: rest) := by
  unfold passOn totalOwed
  split
  · simp only [List.map_cons, List.sum_cons]; omega
  · simp only [List.map_append, List.map_cons, List.map_nil, List.sum_append, List.sum_cons, List.sum_nil]; omega

theorem owed_passOn (m : MemberIdx × Nat) (rest : List (MemberIdx × Nat)) (pos : 1 ≤ m.2) (i : MemberIdx) :
    owed (passOn m rest) i + (if m.1 = i then 1 else 0) = owed (m :: rest) i := by
  unfold passOn owed
  split
  · simp only [List.map_cons, List.sum_cons]; split <;> omega
  · simp only [List.map_append, List.map_cons, List.map_nil, List.sum_append, List.sum_cons, List.sum_nil]; split <;> omega

theorem count_member_cons (i j : MemberIdx) (l : List Occupant) :
    (Occupant.member i :: l).count (.member j) = l.count (.member j) + if i = j then 1 else 0 := by
  simp only [List.count_cons, beq_iff_eq, Occupant.member.injEq]

/-! ### The slots dealt -/

/-- With slots for all, each member receives what it is owed. -/
theorem dealRound_total (n : Nat) (q : List (MemberIdx × Nat)) (pos : Positive q) (enough : totalOwed q ≤ n) :
    (dealRound n q).length = totalOwed q ∧ ∀ i, (dealRound n q).count (.member i) = owed q i := by
  induction n generalizing q with
  | zero =>
    cases q with
    | nil => exact ⟨rfl, fun _ => rfl⟩
    | cons m rest =>
      have := pos m List.mem_cons_self
      have := totalOwed_passOn m rest this
      omega
  | succ n ih =>
    cases q with
    | nil => exact ⟨rfl, fun _ => rfl⟩
    | cons m rest =>
      have head := pos m List.mem_cons_self
      have total := totalOwed_passOn m rest head
      obtain ⟨length, counts⟩ := ih (passOn m rest) pos.passOn (by omega)
      rw [dealRound_cons]
      refine ⟨by rw [List.length_cons, length, total], fun i => ?_⟩
      rw [count_member_cons, counts, owed_passOn m rest head]

/-- Every slot dealt goes to a member of the queue. -/
theorem mem_dealRound (n : Nat) (q : List (MemberIdx × Nat)) (o : Occupant) (h : o ∈ dealRound n q) :
    ∃ m ∈ q, o = .member m.1 := by
  induction n generalizing q with
  | zero => cases h
  | succ n ih =>
    cases q with
    | nil => cases h
    | cons m rest =>
      rw [dealRound_cons] at h
      rcases List.mem_cons.1 h with rfl | later
      · exact ⟨m, List.mem_cons_self, rfl⟩
      · obtain ⟨x, mem, rfl⟩ := ih _ later
        rcases mem_passOn mem with old | ⟨-, rfl⟩
        · exact ⟨x, List.mem_cons_of_mem _ old, rfl⟩
        · exact ⟨m, List.mem_cons_self, rfl⟩

/-- The first slots dealt are those that a shorter deal gives. -/
theorem dealRound_take (n m : Nat) (few : m ≤ n) (q : List (MemberIdx × Nat)) : (dealRound n q).take m = dealRound m q := by
  induction n generalizing m q with
  | zero => obtain rfl := Nat.le_zero.1 few; rfl
  | succ n ih =>
    cases m with
    | zero => rfl
    | succ m =>
      cases q with
      | nil => rfl
      | cons x rest => rw [dealRound_cons, dealRound_cons, List.take_succ_cons, ih m (by omega)]

/-! ### The rounds -/

/-- With `c` slots dealt to each member, `i` is not behind `j` but for the slot that a lower index has in the round (R98). -/
def NotBehind (c : MemberIdx → Nat) (i j : MemberIdx) : Prop := c j ≤ c i ∨ (c j = c i + 1 ∧ j < i)

/-- Where a deal in rounds stands (R98): along the queue the members that have not had their slot of the round come first, each part
in ascending index, and no member that has left the round is ahead of one in it. -/
structure RoundLaw (set : List MemberIdx) (c : MemberIdx → Nat) (q : List (MemberIdx × Nat)) : Prop where
  queue : q.Pairwise fun x y => (c x.1 = c y.1 ∧ x.1 < y.1) ∨ (c y.1 = c x.1 + 1 ∧ y.1 < x.1)
  gone : ∀ j ∈ set, (∀ x ∈ q, x.1 ≠ j) → ∀ x ∈ q, NotBehind c x.1 j

theorem RoundLaw.start {set : List MemberIdx} {q : List (MemberIdx × Nat)} (asc : (q.map fun m => m.1).Pairwise (· < ·)) :
    RoundLaw set (fun _ => 0) q where
  queue := (List.pairwise_map.1 asc).imp fun lt => .inl ⟨rfl, lt⟩
  gone := fun _ _ _ _ _ => .inl (Nat.le_refl _)

/-- A slot to the head of the queue keeps the law. -/
theorem RoundLaw.passOn {set : List MemberIdx} {c : MemberIdx → Nat} {m : MemberIdx × Nat} {rest : List (MemberIdx × Nat)}
    (law : RoundLaw set c (m :: rest)) : RoundLaw set (fun j => c j + if m.1 = j then 1 else 0) (passOn m rest) := by
  obtain ⟨head, tail⟩ := List.pairwise_cons.1 law.queue
  have other : ∀ x ∈ rest, m.1 ≠ x.1 := fun x hx same => by
    have := head x hx
    rw [same] at this
    simp at this
  have kept : rest.Pairwise fun x y => ((c x.1 + if m.1 = x.1 then 1 else 0) = (c y.1 + if m.1 = y.1 then 1 else 0) ∧ x.1 < y.1) ∨
      ((c y.1 + if m.1 = y.1 then 1 else 0) = (c x.1 + if m.1 = x.1 then 1 else 0) + 1 ∧ y.1 < x.1) :=
    tail.imp_of_mem fun {x y} hx hy h => by simpa [other x hx, other y hy] using h
  constructor
  case queue =>
    unfold Machine.passOn
    split
    · exact kept
    · refine List.pairwise_append.2 ⟨kept, List.pairwise_singleton _ _, fun x hx y hy => ?_⟩
      obtain rfl := List.mem_singleton.1 hy
      have := head x hx
      simp only [other x hx, if_false, if_true, Fin.lt_def] at this ⊢
      omega
  case gone =>
    intro j memj out x hx
    have ne : x.1 ≠ j := out x hx
    unfold NotBehind
    by_cases last : m.1 = j
    · subst last
      rcases mem_passOn hx with old | ⟨-, rfl⟩
      · have := head x old
        simp only [ne.symm, if_false, if_true, Fin.lt_def] at this ⊢
        omega
      · exact absurd rfl ne
    · have before : ∀ y ∈ m :: rest, y.1 ≠ j := fun y hy => by
        rcases List.mem_cons.1 hy with rfl | later
        · exact last
        · refine out y ?_
          unfold Machine.passOn
          split
          · exact later
          · exact List.mem_append_left _ later
      rcases mem_passOn hx with old | ⟨-, rfl⟩
      · have := law.gone j memj before x (List.mem_cons_of_mem _ old)
        simpa [NotBehind, last, other x old] using this
      · have := law.gone j memj before m List.mem_cons_self
        unfold NotBehind at this
        simp only [last, if_false, if_true]
        omega

/-- In a deal in rounds no member of the set is ahead of one still in the round but for its slot of the round. -/
theorem RoundLaw.notBehind {set : List MemberIdx} {c : MemberIdx → Nat} {q : List (MemberIdx × Nat)} (law : RoundLaw set c q)
    {x : MemberIdx × Nat} (mem : x ∈ q) {j : MemberIdx} (memj : j ∈ set) : NotBehind c x.1 j := by
  by_cases out : ∀ y ∈ q, y.1 ≠ j
  · exact law.gone j memj out x mem
  · simp only [not_forall, not_not] at out
    obtain ⟨y, memy, rfl⟩ := out
    have ahead : q.Pairwise fun x y => NotBehind c x.1 y.1 :=
      law.queue.imp fun h => by simp only [NotBehind, Fin.lt_def] at h ⊢; omega
    have behind : q.Pairwise fun x y => NotBehind c y.1 x.1 :=
      law.queue.imp fun h => by simp only [NotBehind, Fin.lt_def] at h ⊢; omega
    exact ahead.forall_of_forall_of_flip (fun _ _ => .inl le_rfl) behind mem memy

/-- After any number of slots the deal still stands in rounds, with a queue that owes the rest. -/
theorem dealRound_law (set : List MemberIdx) (n : Nat) (c : MemberIdx → Nat) (q : List (MemberIdx × Nat)) (pos : Positive q)
    (law : RoundLaw set c q) : ∃ q', RoundLaw set (fun j => c j + (dealRound n q).count (.member j)) q' ∧
      ∀ j, (dealRound n q).count (.member j) + owed q' j = owed q j := by
  induction n generalizing c q with
  | zero => exact ⟨q, law, fun j => Nat.zero_add _⟩
  | succ n ih =>
    cases q with
    | nil => exact ⟨[], law, fun j => Nat.zero_add _⟩
    | cons m rest =>
      obtain ⟨q', law', rest'⟩ := ih _ _ pos.passOn law.passOn
      simp only [dealRound_cons, count_member_cons]
      refine ⟨q', ?_, fun j => ?_⟩
      · simpa only [Nat.add_assoc, Nat.add_comm] using law'
      · have := owed_passOn m rest (pos m List.mem_cons_self) j
        have := rest' j
        omega

/-! ### Home fill (R98) -/

section

variable (w : MemberIdx → Nat) (set : List MemberIdx)

/-- The queue that home fill begins with: the members of the set with a quota. -/
def homeQueue : List (MemberIdx × Nat) := (set.map fun i => (i, quota w set i)).filter fun m => m.2 != 0

theorem homeFill_eq : homeFill w set = spreadOf (dealRound 64 (homeQueue w set)) := rfl

theorem homeQueue_positive : Positive (homeQueue w set) := fun m hm => by
  have := (List.mem_filter.1 hm).2
  exact Nat.one_le_iff_ne_zero.2 (by simpa using this)

theorem sum_map_filter_of_zero {α : Type} (f : α → Nat) (p : α → Bool) (l : List α) (zero : ∀ x ∈ l, p x = false → f x = 0) :
    ((l.filter p).map f).sum = (l.map f).sum := by
  induction l with
  | nil => rfl
  | cons x l ih =>
    have ih := ih fun y hy => zero y (List.mem_cons_of_mem _ hy)
    cases h : p x with
    | true => simp [h, ih]
    | false => simp [h, ih, zero x List.mem_cons_self h]

/-- Of a list without repeats one place alone counts. -/
theorem sum_map_single {α : Type} [DecidableEq α] (f : α → Nat) (l : List α) (nodup : l.Nodup) {a : α} (mem : a ∈ l) :
    (l.map fun x => if x = a then f x else 0).sum = f a := by
  induction l with
  | nil => cases mem
  | cons x l ih =>
    obtain ⟨fresh, nodup⟩ := List.nodup_cons.1 nodup
    rcases List.mem_cons.1 mem with rfl | later
    · have none : (l.map fun y => if y = a then f y else 0) = l.map fun _ => 0 :=
        List.map_congr_left fun y hy => if_neg fun same : y = a => fresh (same ▸ hy)
      simp [none]
    · have ne : x ≠ a := fun same => fresh (same ▸ later)
      simp [ne, ih nodup later]

theorem homeQueue_total : totalOwed (homeQueue w set) = (set.map (quota w set)).sum := by
  unfold totalOwed homeQueue
  rw [sum_map_filter_of_zero _ _ _ fun m _ h => by simpa using h, List.map_map]
  rfl

theorem homeQueue_owed (nodup : set.Nodup) {i : MemberIdx} (mem : i ∈ set) : owed (homeQueue w set) i = quota w set i := by
  unfold owed homeQueue
  rw [sum_map_filter_of_zero _ _ _ fun m _ h => by have : m.2 = 0 := by simpa using h
                                                   simp [this], List.map_map]
  exact sum_map_single (quota w set) set nodup mem

theorem homeQueue_ascending (asc : set.Pairwise (· < ·)) : ((homeQueue w set).map fun m => m.1).Pairwise (· < ·) := by
  refine List.Pairwise.sublist (List.filter_sublist.map _) ?_
  rw [List.map_map]
  exact (List.map_id set).symm ▸ asc

variable {w set}

/-- Home fill is the deal of 64 slots, each member receiving its quota. -/
theorem homeFill_deal (some : set ≠ []) (nodup : set.Nodup) (pos : ∀ i ∈ set, 1 ≤ w i) :
    (homeFill w set).toList = dealRound 64 (homeQueue w set) ∧
      ∀ i ∈ set, (dealRound 64 (homeQueue w set)).count (.member i) = quota w set i := by
  have total : totalOwed (homeQueue w set) = 64 := (homeQueue_total w set).trans (quota_sum some nodup pos)
  obtain ⟨length, counts⟩ := dealRound_total 64 _ (homeQueue_positive w set) total.le
  exact ⟨spreadOf_toList _ (length.trans total), fun i mem => (counts i).trans (homeQueue_owed w set nodup mem)⟩

/-- Home fill gives every slot to a member of the set (R98). -/
theorem homeFill_member (some : set ≠ []) (nodup : set.Nodup) (pos : ∀ i ∈ set, 1 ≤ w i) (k : Slot) :
    ∃ i ∈ set, (homeFill w set)[k] = .member i := by
  have slot : (homeFill w set)[k] ∈ (homeFill w set).toList := by simp
  rw [(homeFill_deal some nodup pos).1] at slot
  obtain ⟨m, mem, e⟩ := mem_dealRound _ _ _ slot
  obtain ⟨i, memi, rfl⟩ := List.mem_map.1 (List.mem_filter.1 mem).1
  exact ⟨i, memi, e⟩

/-- Home fill gives every member its quota (R98). -/
theorem homeFill_count (some : set ≠ []) (nodup : set.Nodup) (pos : ∀ i ∈ set, 1 ≤ w i) {i : MemberIdx} (mem : i ∈ set) :
    (homeFill w set).toList.count (.member i) = quota w set i := by
  obtain ⟨list, counts⟩ := homeFill_deal some nodup pos
  rw [list, counts i mem]

end

theorem exists_of_owed_pos {q : List (MemberIdx × Nat)} {i : MemberIdx} (h : 0 < owed q i) : ∃ x ∈ q, x.1 = i := by
  by_contra none
  simp only [not_exists, not_and] at none
  have zero : (q.map fun m => if m.1 = i then m.2 else 0) = q.map fun _ => 0 :=
    List.map_congr_left fun m hm => if_neg (none m hm)
  unfold owed at h
  simp [zero] at h

/-- Settles O27: a member with quota left is still in the round. -/
theorem homeFillDealsTheQuotasInRounds : Obligations.HomeFillDealsTheQuotasInRounds := by
  intro w set some asc pos
  have nodup : set.Nodup := asc.imp fun lt => ne_of_lt lt
  refine ⟨homeFill_member some nodup pos, fun i mem => homeFill_count some nodup pos mem, fun n few i mem j memj left => ?_⟩
  rw [(homeFill_deal some nodup pos).1, dealRound_take 64 n few] at left ⊢
  obtain ⟨q, law, rest⟩ := dealRound_law set n (fun _ => 0) _ (homeQueue_positive w set) (.start (homeQueue_ascending w set asc))
  have owes := rest i
  rw [homeQueue_owed w set nodup mem] at owes
  obtain ⟨x, memx, rfl⟩ := exists_of_owed_pos (q := q) (i := i) (by omega)
  have := law.notBehind memx memj
  simp only [NotBehind, Nat.zero_add, Fin.lt_def] at this owes left ⊢
  omega

end Sys2Proof.Machine
end

section
/-! Requota (R99, R100): the slots it keeps, slot by slot, and the pool slots dealt each to the largest shortfall. -/

namespace Sys2Proof.Machine

/-! ### Slots counted one by one -/

/-- Counting along the first places of a list given by its places. -/
theorem countP_take_ofFn {α : Type} {n : Nat} (f : Fin n → α) (p : α → Bool) (k : Nat) :
    ((List.ofFn f).take k).countP p = (List.finRange n).countP fun i => decide (i.val < k) && p (f i) := by
  induction n generalizing k with
  | zero => simp
  | succ n ih =>
    rw [List.ofFn_succ, List.finRange_succ, List.countP_cons, List.countP_map]
    cases k with
    | zero => simp
    | succ k =>
      rw [List.take_succ_cons, List.countP_cons, ih]
      simp [Function.comp_def]

theorem countP_ofFn {α : Type} {n : Nat} (f : Fin n → α) (p : α → Bool) :
    (List.ofFn f).countP p = (List.finRange n).countP fun i => p (f i) := by
  have all := countP_take_ofFn f p n
  rw [List.take_of_length_le (by simp)] at all
  simpa using all

/-- An occupant is found more often in all than before one of its places. -/
theorem count_take_lt {α : Type} [DecidableEq α] (l : List α) (k : Nat) (hk : k < l.length) :
    (l.take k).count l[k] < l.count l[k] := by
  have parts : l.count l[k] = (l.take k).count l[k] + (l.drop k).count l[k] := by
    rw [← List.count_append, List.take_append_drop]
  rw [parts, List.drop_eq_getElem_cons hk, List.count_cons_self]
  omega

theorem ofFn_get {α : Type} {n : Nat} (f : Fin n → α) (k : Fin n) : (List.ofFn f)[k.val]? = some (f k) := by simp

theorem eq_ofFn {α : Type} {n : Nat} (l : List α) (f : Fin n → α) (length : l.length ≤ n)
    (get : ∀ k : Fin n, l[k.val]? = some (f k)) : l = List.ofFn f := by
  refine List.ext_getElem? fun k => ?_
  by_cases hk : k < n
  · exact (get ⟨k, hk⟩).trans (ofFn_get f ⟨k, hk⟩).symm
  · rw [List.getElem?_eq_none (by omega), List.getElem?_eq_none (by simpa using hk)]

section

variable (w : MemberIdx → Nat) (set : List MemberIdx)

/-! ### The slots kept (R99, steps 2 and 3) -/

/-- The member that keeps a slot with this occupant above these lower slots; none where the slot joins the pool. -/
def keptAt (before : List Occupant) : Occupant → Option MemberIdx
  | .member i => if i ∈ set ∧ before.count (.member i) < quota w set i then some i else none
  | .escape => none
  | .empty => none

theorem keptAt_eq_some (before : List Occupant) (o : Occupant) (i : MemberIdx) :
    keptAt w set before o = some i ↔ o = .member i ∧ i ∈ set ∧ before.count (.member i) < quota w set i := by
  cases o with
  | member j =>
    by_cases h : j ∈ set ∧ before.count (.member j) < quota w set j
    · simp only [keptAt, if_pos h, Option.some.injEq, Occupant.member.injEq]
      exact ⟨fun e => ⟨e, e ▸ h⟩, fun e => e.1⟩
    · simp only [keptAt, if_neg h, reduceCtorEq, Occupant.member.injEq, false_iff]
      rintro ⟨rfl, k⟩
      exact h k
  | escape => simp [keptAt]
  | empty => simp [keptAt]

/-- The slots listed as held are, of each member of the set, the first of its slots up to its quota. -/
def HeldBefore (held : List MemberIdx) (before : List Occupant) : Prop :=
  ∀ i ∈ set, held.count i = min (quota w set i) (before.count (.member i))

/-- The scan of one slot. -/
theorem keepSlots_cons (o : Occupant) (rest before : List Occupant) (held : List MemberIdx) (agree : HeldBefore w set held before) :
    ∃ held', HeldBefore w set held' (before ++ [o]) ∧
      keepSlots w set (o :: rest) held = keptAt w set before o :: keepSlots w set rest held' := by
  cases o with
  | member i =>
    have same : (set.contains i && decide (held.count i < quota w set i)) = true ↔
        i ∈ set ∧ before.count (.member i) < quota w set i := by
      rw [Bool.and_eq_true, List.contains_iff_mem, decide_eq_true_eq]
      exact and_congr_right fun mem => by rw [agree i mem, min_lt_iff]; simp
    by_cases kept : i ∈ set ∧ before.count (.member i) < quota w set i
    · refine ⟨i :: held, fun j mem => ?_, by simp only [keepSlots, if_pos (same.2 kept), keptAt, if_pos kept]⟩
      rw [List.count_append, List.count_cons, List.count_singleton, agree j mem]
      by_cases e : i = j
      · subst e; simp only [beq_self_eq_true, if_true]; omega
      · simp [e]
    · refine ⟨held, fun j mem => ?_, by simp only [keepSlots, if_neg (mt same.1 kept), keptAt, if_neg kept]⟩
      rw [List.count_append, List.count_singleton, agree j mem]
      by_cases e : i = j
      · subst e
        have full : ¬ before.count (.member i) < quota w set i := fun few => kept ⟨mem, few⟩
        simp only [beq_self_eq_true, if_true]
        omega
      · simp [e]
  | escape => exact ⟨held, fun j mem => by simpa using agree j mem, rfl⟩
  | empty => exact ⟨held, fun j mem => by simpa using agree j mem, rfl⟩

theorem keepSlots_get (l before : List Occupant) (held : List MemberIdx) (agree : HeldBefore w set held before) (k : Nat) :
    (keepSlots w set l held)[k]? = l[k]?.map (keptAt w set (before ++ l.take k)) := by
  induction l generalizing before held k with
  | nil => rfl
  | cons o rest ih =>
    obtain ⟨held', agree', e⟩ := keepSlots_cons w set o rest before held agree
    rw [e]
    cases k with
    | zero => simp
    | succ k => simp [ih _ _ agree', List.append_assoc]

/-- The scan keeps of each member as many slots as it has, up to its quota. -/
theorem keepSlots_count (l before : List Occupant) (held : List MemberIdx) (agree : HeldBefore w set held before)
    {i : MemberIdx} (mem : i ∈ set) : (keepSlots w set l held).count (some i) + min (quota w set i) (before.count (.member i)) =
      min (quota w set i) ((before ++ l).count (.member i)) := by
  induction l generalizing before held with
  | nil => simp [keepSlots]
  | cons o rest ih =>
    obtain ⟨held', agree', e⟩ := keepSlots_cons w set o rest before held agree
    have later := ih _ _ agree'
    have here := keptAt_eq_some w set before o i
    rw [List.append_assoc, List.singleton_append] at later
    rw [e, List.count_cons, ← later, List.count_append, List.count_singleton]
    by_cases same : o = .member i
    · simp only [same, true_and, mem, beq_iff_eq] at here ⊢
      by_cases few : before.count (.member i) < quota w set i
      · simp only [here.2 few, if_true]; omega
      · simp only [mt here.1 few, if_false, if_true]; omega
    · simp only [same, false_and, iff_false, beq_iff_eq] at here ⊢
      simp [here]

/-! ### The largest shortfall (R99, step 5) -/

theorem largestShort_cons (m : MemberIdx × Nat) (rest : List (MemberIdx × Nat)) : largestShort (m :: rest) =
    match largestShort rest with
    | none => some m
    | some b => if m.2 < b.2 then some b else some m := rfl

/-- The largest shortfall of a list, the first among equals. -/
theorem largestShort_spec (l : List (MemberIdx × Nat)) (some' : l ≠ []) : ∃ b ∈ l, largestShort l = some b ∧
    (∀ m ∈ l, m.2 ≤ b.2) ∧ ((l.map fun m => m.1).Pairwise (· < ·) → ∀ m ∈ l, m.2 = b.2 → b.1 ≤ m.1) := by
  induction l with
  | nil => exact absurd rfl some'
  | cons m rest ih =>
    by_cases last : rest = []
    · subst last
      exact ⟨m, List.mem_cons_self, rfl, fun x hx => by simp_all, fun _ x hx _ => by simp_all⟩
    · obtain ⟨b, memb, e, most, first⟩ := ih last
      by_cases less : m.2 < b.2
      · refine ⟨b, List.mem_cons_of_mem _ memb, by rw [largestShort_cons, e]; exact if_pos less, fun x hx => ?_, fun asc x hx same => ?_⟩
        · rcases List.mem_cons.1 hx with rfl | later
          · exact less.le
          · exact most x later
        · rcases List.mem_cons.1 hx with rfl | later
          · omega
          · exact first (List.pairwise_cons.1 asc).2 x later same
      · refine ⟨m, List.mem_cons_self, by rw [largestShort_cons, e]; exact if_neg less, fun x hx => ?_, fun asc x hx _ => ?_⟩
        · rcases List.mem_cons.1 hx with rfl | later
          · exact le_rfl
          · exact (most x later).trans (Nat.le_of_not_lt less)
        · rcases List.mem_cons.1 hx with rfl | later
          · exact le_rfl
          · exact ((List.pairwise_cons.1 asc).1 x.1 (List.mem_map_of_mem later)).le

/-! ### The pool dealt (R99, steps 4 and 5) -/

/-- The shortfalls of a set, as dealPool takes them. -/
def shorts (f : MemberIdx → Nat) : List (MemberIdx × Nat) := set.map fun i => (i, f i)

/-- The shortfalls after a slot to `i`. -/
def lowered (f : MemberIdx → Nat) (i : MemberIdx) : MemberIdx → Nat := fun j => f j - if i = j then 1 else 0

/-- `i` is a member of the set with the largest shortfall, the lowest where the set ascends. -/
structure Largest (f : MemberIdx → Nat) (i : MemberIdx) : Prop where
  mem : i ∈ set
  most : ∀ j ∈ set, f j ≤ f i
  lowest : set.Pairwise (· < ·) → ∀ j ∈ set, f j = f i → i ≤ j

variable {set}

theorem dealPool_none (rest : List (Option MemberIdx)) (f : MemberIdx → Nat) (some' : set ≠ []) :
    ∃ i, Largest set f i ∧
      dealPool (none :: rest) (shorts set f) = .member i :: dealPool rest (shorts set (lowered f i)) := by
  obtain ⟨b, memb, e, most, lowest⟩ := largestShort_spec (shorts set f) (by simpa [shorts] using some')
  obtain ⟨i, mem, rfl⟩ := List.mem_map.1 memb
  refine ⟨i, ⟨mem, fun j memj => most _ (List.mem_map_of_mem memj), fun asc j memj same => ?_⟩, ?_⟩
  · refine lowest ?_ _ (List.mem_map_of_mem memj) same
    rw [shorts, List.map_map]
    exact (List.map_id set).symm ▸ asc
  · rw [dealPool, e]
    simp only [shorts, List.map_map]
    refine congrArg (fun short => Occupant.member i :: dealPool rest short) (List.map_congr_left fun j _ => ?_)
    by_cases same : j = i
    · subst same; simp [lowered]
    · simp [lowered, same, Ne.symm same]

theorem dealPool_length (l : List (Option MemberIdx)) (short : List (MemberIdx × Nat)) : (dealPool l short).length = l.length := by
  induction l generalizing short with
  | nil => rfl
  | cons x rest ih =>
    cases x with
    | some i => simp [dealPool, ih]
    | none => rw [dealPool]; split <;> simp [ih]

/-- A slot that is kept keeps its member. -/
theorem dealPool_get_some (l : List (Option MemberIdx)) (short : List (MemberIdx × Nat)) (k : Nat) (i : MemberIdx)
    (kept : l[k]? = some (some i)) : (dealPool l short)[k]? = some (.member i) := by
  induction l generalizing short k with
  | nil => cases kept
  | cons x rest ih =>
    cases k with
    | zero =>
      obtain rfl : x = some i := by simpa using kept
      rfl
    | succ k =>
      have kept : rest[k]? = some (some i) := kept
      cases x with
      | some j => exact ih _ _ kept
      | none => rw [dealPool]; split <;> exact ih _ _ kept

/-- Of shortfalls that are not all used up the largest is not. -/
theorem Largest.pos {f : MemberIdx → Nat} {i : MemberIdx} (largest : Largest set f i) (left : (set.map f).sum ≠ 0) : 1 ≤ f i := by
  by_contra none
  refine left (List.sum_eq_zero fun x hx => ?_)
  obtain ⟨j, memj, rfl⟩ := List.mem_map.1 hx
  have := largest.most j memj
  omega

theorem sum_lowered {f : MemberIdx → Nat} {i : MemberIdx} (nodup : set.Nodup) (mem : i ∈ set) (pos : 1 ≤ f i) :
    (set.map (lowered f i)).sum + 1 = (set.map f).sum := by
  have split : set.map f = set.map fun j => lowered f i j + if decide (i = j) = true then 1 else 0 :=
    List.map_congr_left fun j _ => by
      unfold lowered
      by_cases same : i = j
      · subst same; simp; omega
      · simp [same]
  have one : set.countP (fun j => decide (i = j)) = 1 := by
    rw [← List.count_eq_one_of_mem nodup mem, List.count]
    exact List.countP_congr fun j _ => by rw [decide_eq_true_eq, beq_iff_eq, eq_comm]
  rw [split, sum_map_add_indicator, one]

/-- With a pool slot for each slot of the shortfalls, every member receives what it is short of. -/
theorem dealPool_count (l : List (Option MemberIdx)) (f : MemberIdx → Nat) (nodup : set.Nodup)
    (enough : (set.map f).sum = l.count none) {i : MemberIdx} (mem : i ∈ set) :
    (dealPool l (shorts set f)).count (.member i) = l.count (some i) + f i := by
  induction l generalizing f with
  | nil =>
    have zero : f i ≤ (set.map f).sum := List.single_le_sum (fun _ _ => Nat.zero_le _) _ (List.mem_map_of_mem mem)
    rw [enough] at zero
    simpa [dealPool] using (Nat.le_zero.1 zero).symm
  | cons x rest ih =>
    cases x with
    | some j =>
      rw [dealPool, count_member_cons, ih f (by simpa using enough), List.count_cons]
      by_cases same : j = i
      · subst same; simp; omega
      · simp [same]
    | none =>
      obtain ⟨j, largest, e⟩ := dealPool_none rest f (List.ne_nil_of_mem mem)
      rw [List.count_cons_self] at enough
      have pos : 1 ≤ f j := largest.pos (by omega)
      have less := sum_lowered nodup largest.mem pos
      rw [e, count_member_cons, ih _ (by omega)]
      simp only [List.count_cons, lowered]
      by_cases same : j = i
      · subst same; simp; omega
      · simp [same]

/-- The shortfalls where the deal comes to slot `k`: those of the start less the lower pool slots dealt to each member. -/
def shortAt (l : List (Option MemberIdx)) (out : List Occupant) (f : MemberIdx → Nat) (k : Nat) (j : MemberIdx) : Nat :=
  f j - ((l.zip out).take k).count (none, .member j)

/-- A pool slot goes to the member with the largest shortfall where the deal comes to it. -/
theorem dealPool_get_none (l : List (Option MemberIdx)) (f : MemberIdx → Nat) (nodup : set.Nodup)
    (enough : (set.map f).sum = l.count none) (some' : set ≠ []) (k : Nat) (pool : l[k]? = some none) :
    ∃ i, (dealPool l (shorts set f))[k]? = some (.member i) ∧
      Largest set (shortAt l (dealPool l (shorts set f)) f k) i ∧ 1 ≤ shortAt l (dealPool l (shorts set f)) f k i := by
  induction l generalizing f k with
  | nil => cases pool
  | cons x rest ih =>
    cases x with
    | some j =>
      cases k with
      | zero => cases pool
      | succ k =>
        obtain ⟨i, slot, largest, pos⟩ := ih f (by simpa using enough) k pool
        have same : shortAt (some j :: rest) (dealPool (some j :: rest) (shorts set f)) f (k + 1) =
            shortAt rest (dealPool rest (shorts set f)) f k := by
          funext m
          simp [shortAt, dealPool]
        exact ⟨i, slot, same ▸ largest, same ▸ pos⟩
    | none =>
      obtain ⟨j, largest, e⟩ := dealPool_none rest f some'
      rw [List.count_cons_self] at enough
      have pos : 1 ≤ f j := largest.pos (by omega)
      rw [e]
      cases k with
      | zero =>
        have start : shortAt (none :: rest) (.member j :: dealPool rest (shorts set (lowered f j))) f 0 = f := by
          funext m
          simp [shortAt]
        rw [start]
        exact ⟨j, rfl, largest, pos⟩
      | succ k =>
        have less := sum_lowered nodup largest.mem pos
        obtain ⟨i, slot, largest', pos'⟩ := ih (lowered f j) (by omega) k pool
        have same : shortAt (none :: rest) (.member j :: dealPool rest (shorts set (lowered f j))) f (k + 1) =
            shortAt rest (dealPool rest (shorts set (lowered f j))) (lowered f j) k := by
          funext m
          simp only [shortAt, lowered, List.zip_cons_cons, List.take_succ_cons, List.count_cons, beq_iff_eq, Prod.mk.injEq,
            true_and, Occupant.member.injEq]
          omega
        exact ⟨i, slot, same ▸ largest', same ▸ pos'⟩

end

end Sys2Proof.Machine
end

section
/-! Requota slot by slot (R99), and the bound on quotas where members are only removed (R100). -/

namespace Sys2Proof.Machine

section

variable (w : MemberIdx → Nat) (set : List MemberIdx) (old : Spread)

/-- The member that keeps slot `k`; none where the slot joins the pool. -/
def keptSlot (k : Slot) : Option MemberIdx := keptAt w set (old.toList.take k.val) old[k]

theorem keptSlot_eq_some (k : Slot) (i : MemberIdx) : keptSlot w set old k = some i ↔
    old[k] = .member i ∧ i ∈ set ∧ (old.toList.take k.val).count (.member i) < quota w set i := keptAt_eq_some w set _ _ i

/-- The scan of a whole spread. -/
def keptSlots : List (Option MemberIdx) := List.ofFn (keptSlot w set old)

theorem keptSlots_get (k : Slot) : (keptSlots w set old)[k.val]? = some (keptSlot w set old k) := ofFn_get _ k

theorem keptSlots_length : (keptSlots w set old).length = 64 := List.length_ofFn

theorem keepSlots_eq : keepSlots w set old.toList [] = keptSlots w set old := by
  have get := keepSlots_get w set old.toList [] [] (fun i _ => by simp)
  refine eq_ofFn _ _ (List.getElem?_eq_none_iff.1 ?_) fun k => ?_
  · rw [get]; simp
  · rw [get]; simp [keptSlot]

/-- The slots that a member keeps. -/
def keptCount (i : MemberIdx) : Nat := (keptSlots w set old).count (some i)

theorem keptCount_eq {i : MemberIdx} (mem : i ∈ set) :
    keptCount w set old i = min (quota w set i) (old.toList.count (.member i)) := by
  have := keepSlots_count w set old.toList [] [] (fun i _ => by simp) mem
  rwa [keepSlots_eq, List.count_nil, Nat.min_zero, Nat.add_zero, List.nil_append] at this

/-- A member's shortfall when the pool is dealt (R99, step 4). -/
def shortfall (i : MemberIdx) : Nat := quota w set i - keptCount w set old i

/-- The slots of requota, as a list. -/
def requotaSlots : List Occupant := dealPool (keptSlots w set old) (shorts set (shortfall w set old))

theorem requotaSlots_length : (requotaSlots w set old).length = 64 := (dealPool_length _ _).trans (keptSlots_length w set old)

theorem requota_eq : requota w set old = spreadOf (requotaSlots w set old) := by
  unfold requota
  simp only [keepSlots_eq]
  rfl

theorem requota_toList : (requota w set old).toList = requotaSlots w set old := by
  rw [requota_eq, spreadOf_toList _ (requotaSlots_length w set old)]

theorem requotaSlots_get (k : Slot) : (requotaSlots w set old)[k.val]? = some (requota w set old)[k] := by
  rw [← requota_toList]
  simp

variable {w set}

theorem sum_sub_add_sum {α : Type} (f g : α → Nat) (l : List α) (le : ∀ a ∈ l, g a ≤ f a) :
    (l.map fun a => f a - g a).sum + (l.map g).sum = (l.map f).sum := by
  induction l with
  | nil => rfl
  | cons a l ih =>
    have := ih fun b hb => le b (List.mem_cons_of_mem _ hb)
    have := le a List.mem_cons_self
    simp only [List.map_cons, List.sum_cons]
    omega

/-- The pool has as many slots as the members are short of. -/
theorem shortfall_sum (some' : set ≠ []) (nodup : set.Nodup) (pos : ∀ i ∈ set, 1 ≤ w i) :
    (set.map (shortfall w set old)).sum = (keptSlots w set old).count none := by
  have parts := sum_sub_add_sum (quota w set) (keptCount w set old) set fun i mem => by
    rw [keptCount_eq w set old mem]; exact Nat.min_le_left _ _
  have kept := sum_map_count_eq_countP (keptSlots w set old) (set.map some) (nodup.map (Option.some_injective _)) Option.isSome
    fun x hx => by
      obtain ⟨k, rfl⟩ := (List.mem_ofFn' _ _).1 hx
      cases h : keptSlot w set old k with
      | none => simp
      | some i => simpa using ((keptSlot_eq_some w set old k i).1 h).2.1
  have all := List.length_eq_countP_add_countP Option.isSome (l := keptSlots w set old)
  have pool : (keptSlots w set old).countP (fun x => decide ¬ x.isSome = true) = (keptSlots w set old).count none :=
    List.countP_congr fun x _ => by cases x <;> simp
  rw [List.map_map] at kept
  rw [quota_sum some' nodup pos] at parts
  rw [pool, keptSlots_length, ← kept] at all
  change (set.map (shortfall w set old)).sum + (set.map (keptCount w set old)).sum = 64 at parts
  change 64 = (set.map (keptCount w set old)).sum + _ at all
  omega

/-- Requota does not move a slot that it keeps (R99, steps 2 and 3). -/
theorem requota_kept {k : Slot} {i : MemberIdx} (kept : keptSlot w set old k = some i) : (requota w set old)[k] = .member i := by
  have slot := dealPool_get_some (keptSlots w set old) (shorts set (shortfall w set old)) k.val i
    ((keptSlots_get w set old k).trans (congrArg some kept))
  exact Option.some.inj ((requotaSlots_get w set old k).symm.trans slot)

/-- Requota gives a slot of the pool to the largest shortfall where the deal comes to it (R99, step 5). -/
theorem requota_pool (some' : set ≠ []) (nodup : set.Nodup) (pos : ∀ i ∈ set, 1 ≤ w i) {k : Slot}
    (pool : keptSlot w set old k = none) :
    let short := shortAt (keptSlots w set old) (requotaSlots w set old) (shortfall w set old) k.val
    ∃ i, (requota w set old)[k] = .member i ∧ Largest set short i ∧ 1 ≤ short i := by
  obtain ⟨i, slot, largest, left⟩ := dealPool_get_none (keptSlots w set old) (shortfall w set old) nodup
    (shortfall_sum old some' nodup pos) some' k.val
    ((keptSlots_get w set old k).trans (congrArg some pool))
  exact ⟨i, Option.some.inj ((requotaSlots_get w set old k).symm.trans slot), largest, left⟩

/-- Requota gives every slot to a member of the set (R99). -/
theorem requota_member (some' : set ≠ []) (nodup : set.Nodup) (pos : ∀ i ∈ set, 1 ≤ w i) (k : Slot) :
    ∃ i ∈ set, (requota w set old)[k] = .member i := by
  cases kept : keptSlot w set old k with
  | some i => exact ⟨i, ((keptSlot_eq_some w set old k i).1 kept).2.1, requota_kept old kept⟩
  | none =>
    obtain ⟨i, slot, largest, -⟩ := requota_pool old some' nodup pos kept
    exact ⟨i, largest.mem, slot⟩

/-- Requota gives every member its quota (R99). -/
theorem requota_count (some' : set ≠ []) (nodup : set.Nodup) (pos : ∀ i ∈ set, 1 ≤ w i) {i : MemberIdx} (mem : i ∈ set) :
    (requota w set old).toList.count (.member i) = quota w set i := by
  have most : keptCount w set old i ≤ quota w set i := by rw [keptCount_eq w set old mem]; exact Nat.min_le_left _ _
  rw [requota_toList, requotaSlots, dealPool_count _ _ nodup (shortfall_sum old some' nodup pos) mem]
  exact Nat.add_sub_cancel' most

/-- Where every member of the set has its quota, every slot is a member's. -/
theorem member_of_quotas (some' : set ≠ []) (nodup : set.Nodup) (pos : ∀ i ∈ set, 1 ≤ w i)
    (quotas : ∀ i ∈ set, old.toList.count (.member i) = quota w set i) (k : Slot) : ∃ i ∈ set, old[k] = .member i := by
  have total : (set.map fun i => old.toList.count (.member i)).sum = 64 := by
    rw [List.map_congr_left quotas, quota_sum some' nodup pos]
  have held := sum_map_count_eq_countP old.toList (set.map Occupant.member) (nodup.map fun _ _ => Occupant.member.inj)
    (fun x => decide (x ∈ set.map Occupant.member)) fun x _ => decide_eq_true_iff
  rw [List.map_map] at held
  have all := List.countP_eq_length.1 (held.symm.trans (total.trans (by simp : 64 = old.toList.length))) old[k] (by simp)
  obtain ⟨i, mem, e⟩ := List.mem_map.1 (of_decide_eq_true all)
  exact ⟨i, mem, e.symm⟩

/-- Requota leaves a spread as it is that already gives every member its quota (R99). -/
theorem requota_self (some' : set ≠ []) (nodup : set.Nodup) (pos : ∀ i ∈ set, 1 ≤ w i)
    (quotas : ∀ i ∈ set, old.toList.count (.member i) = quota w set i) : requota w set old = old := by
  refine Vector.ext fun n hn => ?_
  obtain ⟨i, mem, slot⟩ := member_of_quotas old some' nodup pos quotas ⟨n, hn⟩
  have few := count_take_lt old.toList n (by simpa using hn)
  have here : old.toList[n]'(by simpa using hn) = .member i := slot
  rw [here, quotas i mem] at few
  exact (requota_kept old ((keptSlot_eq_some w set old ⟨n, hn⟩ i).2 ⟨slot, mem, few⟩)).trans slot.symm

variable (w set)

/-! ### In the terms of the statement -/

/-- A slot is kept where its occupant is a member of the set with fewer lower slots than its quota. -/
theorem any_kept (k : Slot) : (set.any fun i => old[k] == .member i && decide ((old.toList.take k.val).count (.member i) < quota w set i)) =
    (keptSlot w set old k).isSome := by
  rw [Bool.eq_iff_iff, Option.isSome_iff_exists]
  simp only [List.any_eq_true, Bool.and_eq_true, beq_iff_eq, decide_eq_true_eq, keptSlot_eq_some]
  exact ⟨fun ⟨i, mem, slot, few⟩ => ⟨i, slot, mem, few⟩, fun ⟨i, slot, mem, few⟩ => ⟨i, mem, slot, few⟩⟩

theorem kept_by_iff (k : Slot) (i : MemberIdx) :
    ((keptSlot w set old k).isSome && old[k] == .member i) = (keptSlot w set old k == some i) := by
  cases h : keptSlot w set old k with
  | none => rfl
  | some j =>
    have slot := ((keptSlot_eq_some w set old k j).1 h).1
    rw [slot, Bool.eq_iff_iff]
    simp

theorem shortAt_eq (k : Slot) (i : MemberIdx) :
    shortAt (keptSlots w set old) (requotaSlots w set old) (shortfall w set old) k.val i =
      quota w set i - ((List.finRange 64).countP fun l => (keptSlot w set old l).isSome && old[l] == .member i) -
        ((List.finRange 64).countP fun l => decide (l < k) && !(keptSlot w set old l).isSome &&
          (requota w set old)[l] == .member i) := by
  have pairs : (keptSlots w set old).zip (requotaSlots w set old) =
      List.ofFn fun l => (keptSlot w set old l, (requota w set old)[l]) := by
    refine eq_ofFn _ _ ?_ fun l => ?_
    · rw [List.length_zip, keptSlots_length, requotaSlots_length]; exact le_rfl
    · exact List.getElem?_zip_eq_some.2 ⟨keptSlots_get w set old l, requotaSlots_get w set old l⟩
  have kept : keptCount w set old i = (List.finRange 64).countP fun l => keptSlot w set old l == some i := countP_ofFn _ _
  have dealt : ((List.ofFn fun l => (keptSlot w set old l, (requota w set old)[l])).take k.val).count (none, .member i) =
      (List.finRange 64).countP fun l => decide (l < k) && !(keptSlot w set old l).isSome && (requota w set old)[l] == .member i := by
    rw [List.count, countP_take_ofFn]
    refine List.countP_congr fun l _ => ?_
    simp only [Bool.and_eq_true, beq_iff_eq, Prod.mk.injEq, Bool.not_eq_true', Option.isSome_eq_false_iff, Option.isNone_iff_eq_none,
      decide_eq_true_eq, Fin.lt_def, and_assoc]
  simp only [kept_by_iff]
  rw [shortAt, shortfall, kept, pairs, dealt]

end

/-- Settles O28: a kept slot keeps its member, and a slot of the pool goes to the largest shortfall; the bound of R100 from the bases. -/
theorem requotaKeepsWhatFitsTheQuotas : Obligations.RequotaKeepsWhatFitsTheQuotas := by
  refine ⟨fun w set left sub _ pos i mem => ?_, fun w set old some' nodup pos => ?_⟩
  · have bases := baseQuota_antitone sub mem (pos i (sub.subset mem))
    have := quota_base_or_succ (w := w) (set := set) i
    have := quota_base_or_succ (w := w) (set := left) i
    omega
  refine ⟨requota_member old some' nodup pos, fun i mem => requota_count old some' nodup pos mem,
    fun k i mem slot few => requota_kept old ((keptSlot_eq_some w set old k i).2 ⟨slot, mem, few⟩),
    requota_self old some' nodup pos, ?_⟩
  intro new kept short asc k i pool slot
  have isSome : kept = fun l => (keptSlot w set old l).isSome := funext (any_kept w set old)
  have shorts : short k = shortAt (keptSlots w set old) (requotaSlots w set old) (shortfall w set old) k.val := by
    funext j
    rw [shortAt_eq]
    simp only [short, isSome, new]
  rw [isSome] at pool
  obtain ⟨j, dealt, largest, left⟩ := requota_pool old some' nodup pos (by simpa using pool)
  obtain rfl : j = i := Occupant.member.inj (dealt.symm.trans slot)
  rw [shorts]
  refine ⟨left, fun m mem => ?_⟩
  rcases Nat.lt_or_eq_of_le (largest.most m mem) with less | same
  · exact .inl less
  · exact .inr ⟨same, largest.lowest asc m mem same⟩

end Sys2Proof.Machine
end

section
/-! What the Light Monitors, the Uplink View and the Notice Bus Controller leave as it was: the state but for the blocks that they write. -/

namespace Sys2Proof.Machine

/-- The state but for what monitors, view and bus write: light levels, clock, monitors, view, bus, sending side, URGENT and CALM entries,
episode, uplink drops, Journal and order choices, all at their reset values. -/
def State.rest (s : State) : State :=
  { s with
    pins := { s.pins with light := Vector.replicate 8 false }
    clock := ⟨0, 0#32, none⟩
    monitors := Vector.replicate 8 Monitor.cold
    view := View.reset
    bus := Bus.cold
    sender := Sender.reset
    engine := { s.engine with urgent := [], calm := [], episode := none }
    lookup := { s.lookup with dropUplinks := [] }
    journal := Journal.cold
    model := { s.model with ordersMade := 0 } }

/-- An event of the view leaves the rest as it is. -/
theorem State.SameButEntries.rest {s t : State} (h : s.SameButEntries t) : t.rest = s.rest := by
  obtain ⟨l, lookup⟩ := h.lookup
  simp only [State.rest, h.pins, h.start, h.store, h.build, h.sweep, h.job, h.completed, h.discarded, lookup, h.port, h.freeUse,
    h.pending]

namespace State

variable (s : State)

/-! ### The blocks written -/

@[simp] theorem withClock_rest (x : Clock) : (s.withClock x).rest = s.rest := rfl
@[simp] theorem withMonitors_rest (x : Vector Monitor 8) : (s.withMonitors x).rest = s.rest := rfl
@[simp] theorem withView_rest (x : View) : (s.withView x).rest = s.rest := rfl
@[simp] theorem withBus_rest (x : Bus) : (s.withBus x).rest = s.rest := rfl
@[simp] theorem withSender_rest (x : Sender) : (s.withSender x).rest = s.rest := rfl
@[simp] theorem withJournal_rest (x : Journal) : (s.withJournal x).rest = s.rest := rfl

/-! ### Shared operations -/

@[simp] theorem elapse_rest (d : Nat) : (s.elapse d).rest = s.rest := rfl
@[simp] theorem advanceTo_rest (t : Nat) : (s.advanceTo t).rest = s.rest := rfl
@[simp] theorem append_rest (b : JournalBody) : (s.append b).rest = s.rest := rfl
@[simp] theorem orderMade_rest : s.orderMade.rest = s.rest := rfl
@[simp] theorem setCard_rest (c : CardId) (r : CardRecord) : (s.setCard c r).rest = s.rest := rfl
@[simp] theorem raiseDue_rest (f : FrameClass) : (s.raiseDue f).rest = s.rest := rfl

@[simp] theorem entryMade_rest : s.entryMade.rest = s.rest := s.entryMade_same.rest

@[simp] theorem moveEntry_rest (u : Uplink) (e : Entry) : (s.moveEntry u e).rest = s.rest := (s.moveEntry_same u e).rest

@[simp] theorem refindAll_rest (us : List Uplink) : (s.refindAll us).rest = s.rest := (s.refindAll_same us).rest

/-! ### The Light Monitors -/

@[simp] theorem setLight_rest (p : Port) (level : Bool) : (s.setLight p level).rest = s.rest := rfl
@[simp] theorem setMonitor_rest (p : Port) (m : Monitor) : (s.setMonitor p m).rest = s.rest := rfl

@[simp] theorem handStatus_rest (p : Port) (old : PortStatus) : (s.handStatus p old).rest = s.rest := by
  unfold handStatus
  split
  · rfl
  · split <;> exact (refind_same _ _).rest

@[simp] theorem decayPort_rest (p : Port) : (s.decayPort p).rest = s.rest := by simp [decayPort_eq]

theorem foldl_decayPort_rest (ps : List Port) : (ps.foldl decayPort s).rest = s.rest := by
  induction ps generalizing s with
  | nil => rfl
  | cons p ps ih => rw [List.foldl_cons, ih, decayPort_rest]

/-! ### The Uplink View's events -/

@[simp] theorem loseCard_rest (c : CardId) : (s.loseCard c).rest = s.rest := refindAll_rest _ _

@[simp] theorem appendIf_rest (b : Option JournalBody) : (s.appendIf b).rest = s.rest := by
  cases b <;> rfl

@[simp] theorem applyFrame_rest (c : CardId) (cls : FrameClass) (st : Statuses) : (s.applyFrame c cls st).rest = s.rest := by
  simp [applyFrame]

@[simp] theorem isolationStart_rest : s.isolationStart.rest = s.rest := by
  simp only [isolationStart]; split <;> simp

@[simp] theorem isolationEnd_rest : s.isolationEnd.rest = s.rest := rfl

@[simp] theorem setDraining_rest (b : Bool) : (s.setDraining b).rest = s.rest := refindAll_rest _ _

/-! ### The notice bus -/

@[simp] theorem setFramer_rest (f : Framer) : (s.setFramer f).rest = s.rest := rfl

@[simp] theorem framingError_rest (aborted : Bool) : (s.framingError aborted).rest = s.rest := by
  cases aborted <;> rfl

@[simp] theorem crcError_rest (aborted : Bool) : (s.crcError aborted).rest = s.rest := by
  cases aborted <;> rfl

@[simp] theorem dispose_rest (card : CardId) (cls : FrameClass) (st : Statuses) :
    (s.dispose card cls st).rest = s.rest := by
  simp only [dispose]
  split
  · split <;> rfl
  · simp

@[simp] theorem judge_rest (aborted : Bool) (bits : BitVec 48) : (s.judge aborted bits).rest = s.rest := by
  unfold judge
  split
  · simp
  · split <;> simp

@[simp] theorem hear_rest (aborted : Bool) (taken : List Bool) : (s.hear aborted taken).rest = s.rest := by
  rcases s.hear_cases aborted taken with ⟨-, e⟩ | ⟨-, -, e⟩ | ⟨-, -, e⟩ <;> simp [e]

@[simp] theorem startFrame_rest : s.startFrame.rest = s.rest := rfl

@[simp] theorem loseArbitration_rest (cls : FrameClass) (taken : List Bool) :
    (s.loseArbitration cls taken).rest = s.rest := rfl

@[simp] theorem countAbort_rest (cls : FrameClass) : (s.countAbort cls).rest = s.rest := by
  simp only [countAbort]; split <;> rfl

@[simp] theorem abortFrame_rest (cls : FrameClass) (taken : List Bool) : (s.abortFrame cls taken).rest = s.rest := by
  simp [abortFrame]

@[simp] theorem completeFrame_rest (cls : FrameClass) : (s.completeFrame cls).rest = s.rest := rfl

@[simp] theorem readBack_rest (cls : FrameClass) (st : Statuses) (sent : Nat) (b : Bool) :
    (s.readBack cls st sent b).rest = s.rest := by
  cases own : (lineBits cls s.start.cardId st)[sent]? with
  | none => simp [readBack, own]
  | some x =>
    rcases s.readBack_cases cls st sent x b own with ⟨-, -, e⟩ | ⟨-, -, e⟩ | ⟨-, -, e⟩ | ⟨-, -, e⟩ <;> simp [e]

@[simp] theorem startEdge_rest (idle : Nat) : (s.startEdge idle).rest = s.rest := by
  rcases s.startEdge_cases idle with ⟨-, e⟩ | ⟨-, -, e⟩ | ⟨-, -, e⟩ <;> simp [e]

@[simp] theorem takeBit_rest (b : Bool) : (s.takeBit b).rest = s.rest := by
  unfold takeBit
  split
  · rfl
  · split <;> simp
  · simp
  · simp

@[simp] theorem takeBits_rest (bits : List Bool) : (s.takeBits bits).rest = s.rest := by
  induction bits generalizing s with
  | nil => rfl
  | cons b bits ih => rw [takeBits_cons, ih, takeBit_rest]

@[simp] theorem discardReception_rest (receiving : Bool) : (s.discardReception receiving).rest = s.rest := by
  unfold discardReception
  split
  · simp
  · split <;> simp
  · rfl
  · rfl

@[simp] theorem enterFault_rest (receiving : Bool) : (s.enterFault receiving).rest = s.rest := by simp [enterFault]

end State

end Sys2Proof.Machine
end

section
/-! The commands of the Light Monitors, the Uplink View and the notice bus leave the rest as it is. -/

namespace Sys2Proof.Machine

variable {s t : State}

/-! ### The Light Monitors and the Uplink View -/

theorem execLightFall_rest (p : Port) (h : execLightFall p s = .next t) : t.rest = s.rest := by
  obtain rfl := Host.Outcome.next.inj h
  dsimp only
  split
  · split <;> simp
  · rfl

theorem execLightRise_rest (p : Port) (h : execLightRise p s = .next t) : t.rest = s.rest := by
  obtain rfl := Host.Outcome.next.inj h
  dsimp only
  split
  · rfl
  · split <;> simp

theorem execLossTimerExpiry_rest (p : Port) (h : execLossTimerExpiry p s = .next t) : t.rest = s.rest := by
  obtain rfl := Host.Outcome.next.inj h
  split <;> simp

theorem execReturnTimerExpiry_rest (p : Port) (h : execReturnTimerExpiry p s = .next t) : t.rest = s.rest := by
  obtain rfl := Host.Outcome.next.inj h
  split <;> simp

theorem execDecayTick_rest (h : execDecayTick s = .next t) : t.rest = s.rest := by
  obtain rfl := Host.Outcome.next.inj h
  split
  · rfl
  · exact State.foldl_decayPort_rest _ _

theorem execAdmissionDeadline_rest (u : Uplink) (h : execAdmissionDeadline u s = .next t) : t.rest = s.rest := by
  obtain rfl := Host.Outcome.next.inj h
  split <;> simp

theorem execPresenceDeadline_rest (c : CardId) (h : execPresenceDeadline c s = .next t) : t.rest = s.rest := by
  obtain rfl := Host.Outcome.next.inj h
  split <;> simp

/-! ### The notice bus -/

theorem execFrameReceived_rest (gap : Nat) (bits : List Bool) (h : execFrameReceived gap bits s = .next t) :
    t.rest = s.rest := by
  obtain rfl := Host.Outcome.next.inj h
  split
  · split <;> simp
  · rfl

theorem execFrameStart_rest (gap : Nat) (edge : Bool) (h : execFrameStart gap edge s = .next t) : t.rest = s.rest := by
  obtain rfl := Host.Outcome.next.inj h
  split
  · split
    · split
      · simp
      · split <;> simp
    all_goals rfl
  · rfl

theorem execArbitrationLost_rest (h : execArbitrationLost s = .next t) : t.rest = s.rest := by
  obtain rfl := Host.Outcome.next.inj h
  split
  · dsimp only
    split <;> simp
  all_goals rfl

theorem execAbort_rest (h : execAbort s = .next t) : t.rest = s.rest := by
  obtain rfl := Host.Outcome.next.inj h
  split
  · dsimp only
    split
    · simp
    · split <;> simp
  all_goals rfl

theorem execFrameComplete_rest (h : execFrameComplete s = .next t) : t.rest = s.rest := by
  obtain rfl := Host.Outcome.next.inj h
  split <;> simp

theorem execMuteTimerExpiry_rest (h : execMuteTimerExpiry s = .next t) : t.rest = s.rest := by
  obtain rfl := Host.Outcome.next.inj h
  split <;> simp

theorem execBeaconTimerExpiry_rest (h : execBeaconTimerExpiry s = .next t) : t.rest = s.rest := by
  obtain rfl := Host.Outcome.next.inj h
  split <;> simp

theorem execStuckLine_rest (stretch : Nat) (receiving : Bool) (h : execStuckLine stretch receiving s = .next t) :
    t.rest = s.rest := by
  obtain rfl := Host.Outcome.next.inj h
  split <;> simp

theorem execFaultRecovery_rest (recessive : Nat) (h : execFaultRecovery recessive s = .next t) : t.rest = s.rest := by
  obtain rfl := Host.Outcome.next.inj h
  split
  · split <;> simp
  all_goals rfl


end Sys2Proof.Machine
end

section
/-! What the laws of the Group Store read of a state, the operations that leave it as it is, and the commands that do. -/

namespace Sys2Proof

/-- The commands that act on the Group Store, or on the running job or the BUILD entries, without a reset. -/
def Instr.onTables : Instr → Bool
  | .arbiterTake | .reconcile _ | .installation | .commit _ _ | .release _ _ => true
  | _ => false

namespace Machine

/-- The Group Store, the running job and the BUILD entries. -/
def State.tables (s : State) : Store × Option Job × List GroupNo := (s.store, s.engine.job, s.engine.build)

theorem State.tables_eq {s t : State} (h : t.tables = s.tables) :
    t.store = s.store ∧ t.engine.job = s.engine.job ∧ t.engine.build = s.engine.build := by
  simpa only [State.tables, Prod.mk.injEq] using h

theorem State.tables_of_rest {s t : State} (h : t.rest = s.rest) : t.tables = s.tables :=
  show t.rest.tables = s.rest.tables from congrArg State.tables h

namespace State

variable (s : State)

/-! ### Operations that leave the tables -/

@[simp] theorem withPins_tables (x : Pins) : (s.withPins x).tables = s.tables := rfl
@[simp] theorem withClock_tables (x : Clock) : (s.withClock x).tables = s.tables := rfl
@[simp] theorem withStart_tables (x : Start) : (s.withStart x).tables = s.tables := rfl
@[simp] theorem withSender_tables (x : Sender) : (s.withSender x).tables = s.tables := rfl
@[simp] theorem withPort_tables (x : TablePort) : (s.withPort x).tables = s.tables := rfl
@[simp] theorem withPending_tables (x : List Instr) : (s.withPending x).tables = s.tables := rfl

@[simp] theorem elapse_tables (d : Nat) : (s.elapse d).tables = s.tables := rfl
@[simp] theorem advanceTo_tables (t : Nat) : (s.advanceTo t).tables = s.tables := rfl
@[simp] theorem append_tables (b : JournalBody) : (s.append b).tables = s.tables := rfl
@[simp] theorem orderMade_tables : s.orderMade.tables = s.tables := rfl
@[simp] theorem raiseDue_tables (f : FrameClass) : (s.raiseDue f).tables = s.tables := rfl
@[simp] theorem respond_tables (c : StatusCode) (data : List Byte) : (s.respond c data).tables = s.tables := rfl
@[simp] theorem closeEpisode_tables (e : Episode) : (s.closeEpisode e).tables = s.tables := rfl

@[simp] theorem entryMade_tables : s.entryMade.tables = s.tables := tables_of_rest (entryMade_rest s)

@[simp] theorem setDraining_tables (b : Bool) : (s.setDraining b).tables = s.tables := tables_of_rest (setDraining_rest s b)

@[simp] theorem startSettling_tables : s.startSettling.tables = s.tables := by
  unfold startSettling; split <;> rfl

@[simp] theorem handOutcome_tables (g : GroupNo) (old new : Mode) (moved : Nat) :
    (s.handOutcome g old new moved).tables = s.tables := by
  unfold handOutcome
  dsimp only
  split <;> split <;> rfl

@[simp] theorem beginLoad_tables (straps : CardId) : (s.beginLoad straps).tables = s.tables := by
  unfold beginLoad
  split <;> rfl

@[simp] theorem releasePort_tables : s.releasePort.tables = s.tables := rfl
@[simp] theorem selectPort_tables : s.selectPort.tables = s.tables := rfl

theorem finishLoading_tables (c : Settings) (noted : Option JournalBody) : (s.finishLoading c noted).tables = s.tables := by
  rw [finishLoading_eq]
  rfl

@[simp] theorem placeSweep_tables : s.placeSweep.tables = s.tables := entryMade_tables s

theorem enterServe_tables : s.enterServe.tables = s.tables := by
  have serving : s.startServing.tables = s.tables := rfl
  unfold enterServe
  dsimp only
  split
  · simp [serving]
  · split <;> simp [serving]

/-- A command that comes in on the port does to the tables what its effect does, or nothing. -/
theorem takeCommand_tables_of (inPhase : Bool) (effect : State → State) (h : (effect s).tables = s.tables) :
    (s.takeCommand inPhase effect).tables = s.tables := by
  rcases s.takeCommand_cases inPhase effect with ⟨-, -, e⟩ | ⟨-, -, e⟩ | ⟨-, e⟩ | ⟨-, e⟩
  · rw [e, h]
  · rw [e]; rfl
  · rw [e]; rfl
  · rw [e]

end State

/-! ### Commands that leave the tables -/

variable {s t : State}

/-- A command that comes in on the port, where its effect leaves the tables as they are. -/
theorem takeCommand_next_tables {inPhase : Bool} {effect : State → State}
    (h : Host.Outcome.next (s.takeCommand inPhase effect) = (.next t : Host.Outcome State Fault Refusal))
    (e : (effect s).tables = s.tables) : t.tables = s.tables :=
  Host.Outcome.next.inj h ▸ State.takeCommand_tables_of s inPhase effect e

theorem execSettleDeadline_tables (h : execSettleDeadline s = .next t) : t.tables = s.tables := by
  obtain rfl := Host.Outcome.next.inj h
  split
  · rfl
  · split
    · rfl
    · split <;> simp

theorem execDrain_tables (h : execDrain s = .next t) : t.tables = s.tables := by
  refine takeCommand_next_tables h ?_
  split
  · rfl
  · split <;> simp

theorem execUndrain_tables (h : execUndrain s = .next t) : t.tables = s.tables := by
  refine takeCommand_next_tables h ?_
  dsimp only
  split <;> simp

theorem exec_tables (c : Instr) (other : c.onTables = false) (noReset : c.canReset = false) (h : exec c s = .next t) :
    t.tables = s.tables := by
  have aside : t.rest = s.rest → t.tables = s.tables := State.tables_of_rest
  cases c with
  | lightFall p => exact aside (execLightFall_rest p h)
  | lightRise p => exact aside (execLightRise_rest p h)
  | lossTimerExpiry p => exact aside (execLossTimerExpiry_rest p h)
  | returnTimerExpiry p => exact aside (execReturnTimerExpiry_rest p h)
  | decayTick => exact aside (execDecayTick_rest h)
  | admissionDeadline u => exact aside (execAdmissionDeadline_rest u h)
  | presenceDeadline k => exact aside (execPresenceDeadline_rest k h)
  | frameReceived gap bits => exact aside (execFrameReceived_rest gap bits h)
  | frameStart gap edge => exact aside (execFrameStart_rest gap edge h)
  | arbitrationLost => exact aside (execArbitrationLost_rest h)
  | abort => exact aside (execAbort_rest h)
  | frameComplete => exact aside (execFrameComplete_rest h)
  | muteTimerExpiry => exact aside (execMuteTimerExpiry_rest h)
  | beaconTimerExpiry => exact aside (execBeaconTimerExpiry_rest h)
  | stuckLine stretch receiving => exact aside (execStuckLine_rest stretch receiving h)
  | faultRecovery recessive => exact aside (execFaultRecovery_rest recessive h)
  | settleDeadline => exact execSettleDeadline_tables h
  | lookupRequest => obtain rfl := Host.Outcome.next.inj h; split <;> rfl
  | answer => obtain rfl := Host.Outcome.next.inj h; split <;> rfl
  | dropUplink => obtain rfl := Host.Outcome.next.inj h; split <;> rfl
  | dropGroup => obtain rfl := Host.Outcome.next.inj h; split <;> rfl
  | dropAll => obtain rfl := Host.Outcome.next.inj h; split <;> rfl
  | drain => exact execDrain_tables h
  | undrain => exact execUndrain_tables h
  | status | stageClear | stageMember | stageOptions | readGroup | readSpread | readView | readCards | readJournal | readCounters
  | warmReset => exact takeCommand_next_tables h rfl
  | unknownCommand byte =>
    obtain rfl := Host.Outcome.next.inj h
    split
    · rfl
    · exact s.takeCommand_tables_of _ _ rfl
  | resetNReleased straps => obtain rfl := Host.Outcome.next.inj h; split <;> simp
  | warmNReleased straps => obtain rfl := Host.Outcome.next.inj h; split <;> simp
  | loadTimeout => obtain rfl := Host.Outcome.next.inj h; split <;> rfl
  | endOfLoading rom => obtain rfl := Host.Outcome.next.inj h; split <;> simp [State.finishLoading_tables]
  | listenDeadline => obtain rfl := Host.Outcome.next.inj h; split <;> simp [State.enterServe_tables]
  | powerUp | resetNAsserted | warmNAsserted | chipSelectRelease => cases noReset
  | arbiterTake | reconcile | installation | commit | release => cases other

/-! ### Resets -/

/-- A command that can perform a reset leaves the tables as they are, or as a cold or a warm reset leaves them (R105, R106, R125). -/
theorem exec_canReset_tables (c : Instr) (reset : c.canReset = true) (h : exec c s = .next t) :
    t.tables = s.tables ∨ t.tables = (Store.cold, none, []) ∨ t.tables = ({ s.store with pool := [] }, none, []) := by
  cases c with
  | powerUp straps =>
    obtain rfl := Host.Outcome.next.inj h
    exact .inr (.inl (State.beginLoad_tables _ straps))
  | resetNAsserted =>
    obtain rfl := Host.Outcome.next.inj h
    split
    · exact .inl rfl
    · exact .inr (.inl rfl)
  | warmNAsserted =>
    obtain rfl := Host.Outcome.next.inj h
    dsimp only
    split
    · exact .inl rfl
    · split
      · exact .inl rfl
      · exact .inr (.inr rfl)
  | chipSelectRelease r =>
    obtain rfl := Host.Outcome.next.inj h
    have again : ∀ u : State, (if r.again = true then u.selectPort else u).tables = u.tables := fun u => by split <;> rfl
    dsimp only
    rw [again]
    split
    · exact .inr (.inr (State.beginLoad_tables _ _))
    · exact .inl rfl
  | _ => cases reset

end Machine

end Sys2Proof
end

section
/-! What the Repair Engine's commands and those of COMMIT and RELEASE make of the Group Store and the running job. -/

namespace Sys2Proof.Machine

variable {s t : State}

/-! ### The running job -/

namespace State

variable (s : State)

@[simp] theorem handOutcome_store (g : GroupNo) (old new : Mode) (moved : Nat) : (s.handOutcome g old new moved).store = s.store :=
  (tables_eq (handOutcome_tables s g old new moved)).1

@[simp] theorem handOutcome_job (g : GroupNo) (old new : Mode) (moved : Nat) :
    (s.handOutcome g old new moved).engine.job = s.engine.job :=
  (tables_eq (handOutcome_tables s g old new moved)).2.1

@[simp] theorem completeJob_store : s.completeJob.store = s.store :=
  (tables_eq (startSettling_tables (s.withEngine _))).1

@[simp] theorem completeJob_job : s.completeJob.engine.job = none :=
  (tables_eq (startSettling_tables (s.withEngine _))).2.1

/-- A walk that goes on leaves the store. -/
@[simp] theorem walkOn_store (job : Job) (position : Option GroupNo) : (s.walkOn job position).store = s.store := by
  unfold walkOn
  split <;> simp

@[simp] theorem suspend_store (job : Job) (position : GroupNo) : (s.suspend job position).store = s.store := by
  unfold suspend
  split
  · split <;> rfl
  all_goals rfl

@[simp] theorem boundary_store (job : Job) (position : GroupNo) : (s.boundary job position).store = s.store := by
  unfold boundary
  split <;> simp

/-- A walk goes on with its job, or the engine is left without one. -/
theorem walkOn_job (job : Job) (position : Option GroupNo) :
    (s.walkOn job position).engine.job = none ∨ ∃ w, (s.walkOn job position).engine.job = some (job.withWalk w) := by
  unfold walkOn
  split
  · exact .inl (completeJob_job s)
  · exact .inr ⟨_, rfl⟩

/-- Only a job that may be suspended leaves the engine without one. -/
theorem suspend_job (job : Job) (position : GroupNo) (may : job.suspendable = true) :
    (s.suspend job position).engine.job = none := by
  cases job with
  | calm u w => unfold suspend; dsimp only; split <;> rfl
  | sweep w => rfl
  | urgent => cases may
  | build => cases may

/-- At a group boundary a job goes on with its walk, or the engine is left without one (R116). -/
theorem boundary_job (job : Job) (position : GroupNo) :
    (s.boundary job position).engine.job = none ∨ ∃ w, (s.boundary job position).engine.job = some (job.withWalk w) := by
  unfold boundary
  split
  · next may =>
    simp only [Bool.and_eq_true] at may
    exact .inl (suspend_job s job position may.1.2)
  · exact walkOn_job s job (some position)

end State

/-- What walks is no BUILD, and its job holds no record. -/
theorem Job.valid_withWalk {job : Job} {w : Walk} (walks : job.walk? = some w) (v : Walk) : (job.withWalk v).Valid := by
  cases job with
  | build => cases walks
  | _ => trivial

/-! ### COMMIT and RELEASE -/

/-- A pending record enters the pool alone (R149, R150). -/
theorem State.putPending_pool (g : GroupNo) (k : PendingKind) (s : State) : ∃ pool,
    (s.putPending g k).store = { s.store with pool := pool } ∧ (s.putPending g k).engine.job = s.engine.job ∧
      ∀ x ∈ pool, x ∈ s.store.pool ∨ x.kind = k := by
  obtain ⟨store, job, -⟩ := State.tables_eq s.entryMade_tables
  unfold State.putPending
  split
  · refine ⟨_, rfl, rfl, fun x mem => ?_⟩
    obtain ⟨y, old, rfl⟩ := List.mem_map.1 mem
    split
    · exact .inr rfl
    · exact .inl old
  · dsimp only [State.withStore, State.withEngine]
    refine ⟨_, by rw [store], job, fun x mem => ?_⟩
    rcases List.mem_append.1 mem with old | new
    · exact .inl (store ▸ old)
    · obtain rfl := List.mem_singleton.1 new
      exact .inr rfl

/-- What a command that comes in on the port makes of the tables, where it is taken in a phase that allows it or leaves them. -/
theorem takeCommand_next_cases {inPhase : Bool} {effect : State → State}
    (h : Host.Outcome.next (s.takeCommand inPhase effect) = (.next t : Host.Outcome State Fault Refusal)) :
    t = effect s ∨ t.tables = s.tables := by
  obtain rfl := Host.Outcome.next.inj h
  rcases s.takeCommand_cases inPhase effect with ⟨-, -, e⟩ | ⟨-, -, e⟩ | ⟨-, e⟩ | ⟨-, e⟩
  · exact .inl e
  · exact .inr (by rw [e]; rfl)
  · exact .inr (by rw [e]; rfl)
  · exact .inr (by rw [e])

/-- COMMIT leaves the tables, or puts the staging record into the pool after its checks (R149). -/
theorem execCommit_cases (b0 b1 : Byte) (h : execCommit b0 b1 s = .next t) : t.tables = s.tables ∨
    (s.port.staging.refusal = none ∧ t.tables = (s.putPending (groupArg b0 b1) (.record s.port.staging)).tables) := by
  rcases takeCommand_next_cases h with rfl | same
  · split
    · exact .inl rfl
    · next passed =>
      split
      · exact .inr ⟨passed, rfl⟩
      · exact .inl rfl
  · exact .inl same

/-- RELEASE leaves the tables, or puts a release into the pool (R150). -/
theorem execRelease_cases (b0 b1 : Byte) (h : execRelease b0 b1 s = .next t) :
    t.tables = s.tables ∨ t.tables = (s.putPending (groupArg b0 b1) .release).tables := by
  rcases takeCommand_next_cases h with rfl | same
  · split
    · exact .inr rfl
    · exact .inl rfl
  · exact .inl same

/-! ### ARBITER_TAKE -/

/-- A BUILD job takes its record from the pool (R119). -/
theorem State.beginBuild_cases (g : GroupNo) (s : State) : s.beginBuild g = s ∨ ∃ kind snapshot,
    s.store.pendingFor g = some kind ∧
    (s.beginBuild g).store = { s.store with pool := s.store.pool.filter fun x => x.group != g } ∧
      (s.beginBuild g).engine.job = some (.build g kind snapshot) := by
  unfold State.beginBuild
  cases h : s.store.pendingFor g with
  | none => exact .inl rfl
  | some kind => exact .inr ⟨kind, _, rfl, rfl, rfl⟩

/-- ARBITER_TAKE leaves the store but for a record that a BUILD job takes from the pool (R113, R119). -/
theorem execArbiterTake_cases (h : execArbiterTake s = .next t) : t = s ∨
    (t.store = s.store ∧ ∀ j, t.engine.job = some j → j.Valid) ∨
    ∃ g kind snapshot, s.store.pendingFor g = some kind ∧
      t.store = { s.store with pool := s.store.pool.filter fun x => x.group != g } ∧
      t.engine.job = some (.build g kind snapshot) := by
  have walks : ∀ (r : State) (job : Job) (position : Option GroupNo), r.store = s.store → (∀ w, (job.withWalk w).Valid) →
      (r.walkOn job position).store = s.store ∧ ∀ j, (r.walkOn job position).engine.job = some j → j.Valid := by
    intro r job position store valid
    refine ⟨(r.walkOn_store job position).trans store, fun j hj => ?_⟩
    rcases r.walkOn_job job position with none | ⟨w, some⟩
    · rw [none] at hj; cases hj
    · rw [some] at hj; cases hj; exact valid w
  obtain rfl := Host.Outcome.next.inj h
  split
  · exact .inl rfl
  · split
    · next taken _ =>
      cases taken with
      | urgent w => exact .inr (.inl (walks (s.withEngine _) (.urgent w.uplink noWalk) _ rfl fun _ => trivial))
      | sweep e => exact .inr (.inl (walks (s.withEngine _) (.sweep noWalk) _ rfl fun _ => trivial))
      | calm w => exact .inr (.inl (walks (s.withEngine _) (.calm w.uplink noWalk) _ rfl fun _ => trivial))
      | build g =>
        rcases s.beginBuild_cases g with e | ⟨kind, snapshot, built⟩
        · exact .inl e
        · exact .inr (.inr ⟨g, kind, snapshot, built⟩)
    · exact .inl rfl

/-! ### RECONCILE and INSTALLATION -/

/-- RECONCILE leaves the store but for the group of the walk, which it replaces over its own record (R101). -/
theorem execReconcile_cases (time : SnapshotTime) (h : execReconcile time s = .next t) : t = s ∨
    ((∀ j, t.engine.job = some j → j.Valid) ∧
      (t.store = s.store ∨ ∃ (w : Walk) (x : Group) (adm : Uplink → Bool), s.store.find w.group = some x ∧
        t.store = s.store.put (x.reconciled adm))) := by
  obtain rfl := Host.Outcome.next.inj h
  split
  · exact .inl rfl
  · next job _ =>
    split
    · exact .inl rfl
    · next w walks =>
      refine .inr ⟨fun j hj => ?_, ?_⟩
      · rcases State.boundary_job _ job w.group with none | ⟨v, some⟩
        · rw [none] at hj; cases hj
        · rw [some] at hj; cases hj; exact Job.valid_withWalk walks v
      · rw [State.boundary_store]
        unfold State.reconcileGroup
        split
        · exact .inl rfl
        · next x found => exact .inr ⟨w, x, _, found, State.handOutcome_store _ _ _ _ _⟩

/-- INSTALLATION replaces a group over a new record, or releases it, with the member lists (R102, R103). -/
theorem execInstallation_cases (h : execInstallation s = .next t) : t = s ∨ (t.engine.job = none ∧
    ((∃ g r snapshot, s.engine.job = some (.build g (.record r) snapshot) ∧
      t.store = { s.store.put (installed g r (s.store.modeOf g) fun u => snapshot.contains u) with
        memberLists := relist g (fun u => s.store.namesUplink g u) (fun u => r.names u) s.store.memberLists }) ∨
    ∃ g snapshot, s.engine.job = some (.build g .release snapshot) ∧
      t.store = { s.store.remove g with
        memberLists := relist g (fun u => s.store.namesUplink g u) (fun _ => false) s.store.memberLists })) := by
  obtain rfl := Host.Outcome.next.inj h
  split
  · next g r snapshot job =>
    exact .inr ⟨State.completeJob_job _, .inl ⟨g, r, snapshot, job,
      (State.completeJob_store _).trans (State.handOutcome_store _ _ _ _ _)⟩⟩
  · next g snapshot job =>
    exact .inr ⟨State.completeJob_job _, .inr ⟨g, snapshot, job,
      (State.completeJob_store _).trans (State.handOutcome_store _ _ _ _ _)⟩⟩
  all_goals exact .inl rfl

end Sys2Proof.Machine
end

section
/-! The group law (R89, R90, R101, R102): the table of R90 for what the tier choice and the fills make of a group, and every step. -/

namespace Sys2Proof.Machine

variable {s t : State}

/-! ### One group -/

theorem newSpread_members (r : Record) (m : List MemberIdx) (oldTier newTier : ActiveTier) (install : Bool) (old : Spread) :
    newSpread r (.members m) oldTier newTier install old =
      if install || oldTier != newTier then homeFill r.weight m else requota r.weight m old := rfl

/-- Either fill gives every slot to a member of the set and every member its quota (R98, R99). -/
theorem newSpread_filled (r : Record) (m : List MemberIdx) (oldTier newTier : ActiveTier) (install : Bool) (old : Spread)
    (some : m ≠ []) (nodup : m.Nodup) (pos : ∀ i ∈ m, 1 ≤ r.weight i) :
    (∀ k : Slot, ∃ i ∈ m, (newSpread r (.members m) oldTier newTier install old)[k] = .member i) ∧
      ∀ i ∈ m, slotCount (newSpread r (.members m) oldTier newTier install old) (.member i) = quota r.weight m i := by
  rw [newSpread_members]
  split
  · exact ⟨homeFill_member some nodup pos, fun i mem => homeFill_count some nodup pos mem⟩
  · exact ⟨requota_member old some nodup pos, fun i mem => requota_count old some nodup pos mem⟩

/-- A group's mode, tier, set and spread as the tier choice and a fill give them over its record. -/
structure Group.Chosen (x : Group) : Prop where
  choice : ∃ current adm, (x.mode, x.set) = tierChoice x.record current adm
  tier : x.tier = x.mode.activeTier
  spread : ∃ oldTier install old, x.spread = newSpread x.record x.set oldTier x.tier install old

theorem Group.reconciled_chosen (x : Group) (adm : Uplink → Bool) : (x.reconciled adm).Chosen :=
  ⟨⟨x.mode, adm, rfl⟩, rfl, ⟨x.tier, false, x.spread, rfl⟩⟩

theorem installed_chosen (g : GroupNo) (r : Record) (oldMode : Mode) (adm : Uplink → Bool) : (installed g r oldMode adm).Chosen :=
  ⟨⟨oldMode, adm, rfl⟩, rfl, ⟨.none, true, emptySpread, rfl⟩⟩

/-- The admitted members of a tier with a fill over them. -/
theorem Group.holdsQuotas_of_fill (x : Group) (valid : x.record.Valid) (t : Tier) (adm : Uplink → Bool)
    (some' : x.record.admittedOf t adm ≠ []) (set : x.set = .members (x.record.admittedOf t adm))
    (spread : ∃ oldTier install old, x.spread = newSpread x.record x.set oldTier x.tier install old) :
    x.HoldsQuotas t (x.record.admittedOf t adm) := by
  obtain ⟨oldTier, install, old, e⟩ := spread
  have asc := x.record.admittedOf_ascending t adm
  obtain ⟨filled, quotas⟩ := newSpread_filled x.record _ oldTier x.tier install old some' (asc.imp fun lt => ne_of_lt lt)
    fun i mem => valid.weight_pos mem
  rw [set] at e
  refine ⟨some', asc, fun i mem => ?_, fun k => ?_, fun i mem => ?_⟩
  · obtain ⟨seat, place, tier, -⟩ := (x.record.mem_admittedOf t adm i).1 mem
    exact ⟨seat, place, tier⟩
  · rw [e]; exact filled k
  · rw [e]; exact quotas i mem

/-- What the tier choice and a fill make of a valid record keeps the table of R90. -/
theorem Group.Chosen.spreadLaw {x : Group} (chosen : x.Chosen) (valid : x.record.Valid) : x.SpreadLaw := by
  obtain ⟨⟨current, adm, choice⟩, tier, spread⟩ := chosen
  have mode : x.mode = (tierChoice x.record current adm).1 := congrArg Prod.fst choice
  have set : x.set = (tierChoice x.record current adm).2 := congrArg Prod.snd choice
  rcases tierChoice_cases x.record current adm with ⟨e, some⟩ | ⟨e, enough⟩ | ⟨e, some, few⟩ | ⟨e, escape, present, -⟩ | e <;>
    rw [e] at mode set <;> rw [mode] at tier <;> unfold Group.SpreadLaw <;> rw [mode]
  · exact ⟨tier, _, set, x.holdsQuotas_of_fill valid .t1 adm some set spread⟩
  · have some : x.record.admittedOf .t0 adm ≠ [] := by
      have := valid.minLive.1
      exact List.ne_nil_of_length_pos (by omega)
    exact ⟨tier, _, set, enough, x.holdsQuotas_of_fill valid .t0 adm some set spread⟩
  · exact ⟨tier, _, set, few, x.holdsQuotas_of_fill valid .t0 adm some set spread⟩
  · obtain ⟨oldTier, install, old, slots⟩ := spread
    rw [set] at slots
    exact ⟨tier, set, by simp [present], fun k => by rw [slots]; exact Vector.getElem_replicate _⟩
  · obtain ⟨oldTier, install, old, slots⟩ := spread
    rw [set] at slots
    exact ⟨tier, set, fun k => by rw [slots]; exact Vector.getElem_replicate _⟩

theorem installed_number (g : GroupNo) (r : Record) (oldMode : Mode) (adm : Uplink → Bool) :
    (installed g r oldMode adm).number = g := rfl

/-! ### Records -/

/-- A record that passes the checks of COMMIT is valid (R149). -/
theorem Record.valid_of_refusal {r : Record} (passed : r.refusal = none) : r.Valid := by
  unfold Record.refusal at passed
  split at passed
  · cases passed
  · next tier0 =>
    split at passed
    · cases passed
    · next once =>
      split at passed
      · cases passed
      · next weights =>
        split at passed
        · cases passed
        · next minLive =>
          have all : ∀ m ∈ r.members, 1 ≤ m.2.weight ∧ m.2.weight ≤ 16 := by simpa using weights
          exact ⟨by omega, not_not.1 once, all, by omega⟩

theorem Store.mem_of_find {st : Store} {g : GroupNo} {x : Group} (found : st.find g = some x) : x ∈ st.groups ∧ x.number = g :=
  ⟨List.mem_of_find?_eq_some found, by simpa using List.find?_some found⟩

theorem Store.pendingFor_valid {st : Store} {g : GroupNo} {kind : PendingKind} (valid : ∀ x ∈ st.pool, x.kind.Valid)
    (found : st.pendingFor g = some kind) : kind.Valid := by
  obtain ⟨x, held, rfl⟩ := Option.map_eq_some_iff.1 found
  exact valid x (List.mem_of_find?_eq_some held)

/-! ### The law -/

/-- The law reads the tables alone. -/
theorem State.GroupLaw.of_tables (law : s.GroupLaw) (h : t.tables = s.tables) : t.GroupLaw := by
  obtain ⟨store, job, -⟩ := State.tables_eq h
  constructor
  case pool => rw [store]; exact law.pool
  case job => rw [job]; exact law.job
  case ascending => rw [store]; exact law.ascending
  case record => rw [store]; exact law.record
  case spread => rw [store]; exact law.spread

/-- A change of the pool and of the job that brings no record but valid ones. -/
theorem State.GroupLaw.of_groups (law : s.GroupLaw) (groups : t.store.groups = s.store.groups)
    (pool : ∀ x ∈ t.store.pool, x.kind.Valid) (job : ∀ j, t.engine.job = some j → j.Valid) : t.GroupLaw where
  pool := pool
  job := job
  ascending := groups ▸ law.ascending
  record := groups ▸ law.record
  spread := groups ▸ law.spread

/-- A group put in over a valid record, as the tier choice and a fill give it. -/
theorem State.GroupLaw.put (law : s.GroupLaw) (y : Group) (valid : y.record.Valid) (chosen : y.Chosen)
    (groups : t.store.groups = (s.store.put y).groups) (pool : t.store.pool = s.store.pool)
    (job : ∀ j, t.engine.job = some j → j.Valid) : t.GroupLaw where
  pool := pool ▸ law.pool
  job := job
  ascending := groups ▸ s.store.put_ascending y law.ascending
  record := fun x mem => by
    rcases (mem_placeGroup _ _ _).1 (groups ▸ mem) with rfl | old
    · exact valid
    · exact law.record x ((mem_dropGroupNo _ _ _).1 old).2
  spread := fun x mem => by
    rcases (mem_placeGroup _ _ _).1 (groups ▸ mem) with rfl | old
    · exact chosen.spreadLaw valid
    · exact law.spread x ((mem_dropGroupNo _ _ _).1 old).2

/-- A group released. -/
theorem State.GroupLaw.remove (law : s.GroupLaw) (g : GroupNo) (groups : t.store.groups = (s.store.remove g).groups)
    (pool : t.store.pool = s.store.pool) (job : ∀ j, t.engine.job = some j → j.Valid) : t.GroupLaw where
  pool := pool ▸ law.pool
  job := job
  ascending := groups ▸ s.store.remove_ascending g law.ascending
  record := fun x mem => law.record x ((mem_dropGroupNo _ _ _).1 (groups ▸ mem)).2
  spread := fun x mem => law.spread x ((mem_dropGroupNo _ _ _).1 (groups ▸ mem)).2

/-! ### The commands -/

theorem State.GroupLaw.arbiterTake (law : s.GroupLaw) (h : execArbiterTake s = .next t) : t.GroupLaw := by
  rcases execArbiterTake_cases h with rfl | ⟨store, job⟩ | ⟨g, kind, snapshot, pending, store, job⟩
  · exact law
  · exact law.of_groups (by rw [store]) (by rw [store]; exact law.pool) job
  · refine law.of_groups (by rw [store]) (fun x mem => ?_) fun j hj => ?_
    · rw [store] at mem
      exact law.pool x (List.mem_filter.1 mem).1
    · rw [job] at hj
      cases hj
      exact Store.pendingFor_valid law.pool pending

theorem State.GroupLaw.reconcile (law : s.GroupLaw) (time : SnapshotTime) (h : execReconcile time s = .next t) : t.GroupLaw := by
  rcases execReconcile_cases time h with rfl | ⟨job, store | ⟨w, x, adm, found, store⟩⟩
  · exact law
  · exact law.of_groups (by rw [store]) (by rw [store]; exact law.pool) job
  · exact law.put (x.reconciled adm) (law.record x (Store.mem_of_find found).1) (x.reconciled_chosen adm) (by rw [store])
      (by rw [store]; rfl) job

theorem State.GroupLaw.installation (law : s.GroupLaw) (h : execInstallation s = .next t) : t.GroupLaw := by
  rcases execInstallation_cases h with rfl | ⟨none, ⟨g, r, snapshot, job, store⟩ | ⟨g, snapshot, -, store⟩⟩
  · exact law
  · exact law.put (installed g r _ _) (law.job _ job : r.Valid) (installed_chosen g r _ _) (by rw [store]) (by rw [store]; rfl)
      (by simp [none])
  · exact law.remove g (by rw [store]) (by rw [store]; rfl) (by simp [none])

/-- A valid record, or a release, put into the pool. -/
theorem State.GroupLaw.putPending (law : s.GroupLaw) (g : GroupNo) (k : PendingKind) (valid : k.Valid) :
    (s.putPending g k).GroupLaw := by
  obtain ⟨pool, store, job, mem⟩ := s.putPending_pool g k
  refine law.of_groups (by rw [store]) (fun x hx => ?_) (by rw [job]; exact law.job)
  rw [store] at hx
  rcases mem x hx with old | rfl
  · exact law.pool x old
  · exact valid

theorem exec_groupLaw (c : Instr) (law : s.GroupLaw) (h : exec c s = .next t) : t.GroupLaw := by
  cases reset : c.canReset with
  | true =>
    rcases exec_canReset_tables c reset h with same | cold | warm
    · exact law.of_tables same
    · exact reset_groupLaw.of_tables cold
    · simp only [State.tables, Prod.mk.injEq] at warm
      obtain ⟨store, job, -⟩ := warm
      exact law.of_groups (by rw [store]) (by simp [store]) (by simp [job])
  | false =>
    cases on : c.onTables with
    | false => exact law.of_tables (exec_tables c on reset h)
    | true =>
      cases c with
      | arbiterTake => exact law.arbiterTake h
      | reconcile time => exact law.reconcile time h
      | installation => exact law.installation h
      | commit b0 b1 =>
        rcases execCommit_cases b0 b1 h with same | ⟨passed, put⟩
        · exact law.of_tables same
        · exact (law.putPending _ (.record s.port.staging) (Record.valid_of_refusal passed)).of_tables put
      | release b0 b1 =>
        rcases execRelease_cases b0 b1 h with same | put
        · exact law.of_tables same
        · exact (law.putPending _ .release trivial).of_tables put
      | _ => cases on

/-- Settles O30: records come in valid by COMMIT alone, and a group comes in or is replaced as the tier choice and a fill give it. -/
theorem groupLawIsKept : Obligations.GroupLawIsKept := by
  intro s t law h
  unfold step at h
  split at h
  · obtain rfl := Host.Outcome.next.inj h
    exact law.of_tables (s.elapse_tables 1)
  · next c rest _ => exact exec_groupLaw c (law.of_tables (s.withPending_tables rest)) h

end Sys2Proof.Machine
end

section
/-! The member lists (R91, R92): group `g` stands in the list of `u` exactly when its installed record names `u`, over every step. -/

namespace Sys2Proof.Machine

variable {s t : State}

/-! ### What a record names -/

/-- What a group names is read off the record found under its number. -/
theorem Store.namesUplink_congr {st st' : Store} {g : GroupNo} (found : (st'.find g).map (fun x => x.record) =
    (st.find g).map fun x => x.record) (u : Uplink) : st'.namesUplink g u = st.namesUplink g u := by
  unfold Store.namesUplink
  cases h : st.find g <;> cases h' : st'.find g <;> rw [h, h'] at found <;> simp_all

theorem Store.namesUplink_of_find {st : Store} {g : GroupNo} {x : Group} (found : st.find g = some x) (u : Uplink) :
    st.namesUplink g u = x.record.names u := by
  simp only [Store.namesUplink, found]

theorem Store.namesUplink_of_none {st : Store} {g : GroupNo} (unused : st.find g = none) (u : Uplink) :
    st.namesUplink g u = false := by
  simp only [Store.namesUplink, unused]

/-! ### The law -/

/-- The law reads the groups' records and the lists alone. -/
theorem Store.ListLaw.of_records {st st' : Store} (law : st.ListLaw) (lists : st'.memberLists = st.memberLists)
    (records : ∀ g, (st'.find g).map (fun x => x.record) = (st.find g).map fun x => x.record) : st'.ListLaw where
  ascending := lists ▸ law.ascending
  named := fun u g => by rw [lists, Store.namesUplink_congr (records g) u]; exact law.named u g

/-- The member lists after a group's record changed, from lists that hold what the records say (R92). -/
theorem Store.ListLaw.mem_relist {st : Store} (law : st.ListLaw) (g : GroupNo) (new : Uplink → Bool) (u : Uplink) (h : GroupNo) :
    h ∈ (relist g (fun v => st.namesUplink g v) new st.memberLists)[u] ↔
      if h = g then new u = true else h ∈ st.memberLists[u] := by
  rw [Machine.mem_relist]
  have old := law.named u g
  by_cases same : h = g
  · subst same
    cases names : st.namesUplink h u <;> simp_all
  · simp [same]

theorem relist_ascending (g : GroupNo) (old new : Uplink → Bool) (lists : Vector (List GroupNo) 128)
    (asc : ∀ u : Uplink, lists[u].Pairwise (· < ·)) (u : Uplink) : (relist g old new lists)[u].Pairwise (· < ·) := by
  simp only [relist, Fin.getElem_fin, Vector.getElem_ofFn]
  split
  · exact insertAsc_ascending g _ (asc u)
  · split
    · exact removeAsc_ascending g _ (asc u)
    · exact asc u

/-- One group's record replaced, with the lists. -/
theorem Store.ListLaw.relist {st st' : Store} (law : st.ListLaw) (g : GroupNo) (new : Uplink → Bool)
    (lists : st'.memberLists = relist g (fun v => st.namesUplink g v) new st.memberLists)
    (here : ∀ u, st'.namesUplink g u = new u) (others : ∀ h, h ≠ g → st'.find h = st.find h) : st'.ListLaw where
  ascending := fun u => by rw [lists]; exact relist_ascending g _ _ _ law.ascending u
  named := fun u h => by
    rw [lists, law.mem_relist g new u h]
    by_cases same : h = g
    · subst same
      rw [if_pos rfl, here]
    · rw [if_neg same, Store.namesUplink_congr (congrArg _ (others h same)) u]
      exact law.named u h

theorem Store.find_congr {st st' : Store} (groups : st'.groups = st.groups) (g : GroupNo) : st'.find g = st.find g := by
  unfold Store.find
  rw [groups]

theorem Store.find_put_number (st : Store) {x : Group} {g : GroupNo} (number : x.number = g) (h : GroupNo) :
    (st.put x).find h = if h = g then some x else st.find h := by
  subst number
  exact st.find_put x h

/-- A group replaced over its own record. -/
theorem Store.find_put_record {st : Store} {x y : Group} (found : st.find y.number = some x) (record : y.record = x.record)
    (g : GroupNo) : ((st.put y).find g).map (fun z => z.record) = (st.find g).map fun z => z.record := by
  rw [Store.find_put]
  by_cases same : g = y.number
  · rw [if_pos same, same, found, Option.map_some, Option.map_some, record]
  · rw [if_neg same]

theorem reconcile_listLaw (law : s.store.ListLaw) (time : SnapshotTime) (h : execReconcile time s = .next t) : t.store.ListLaw := by
  rcases execReconcile_cases time h with rfl | ⟨-, store | ⟨w, x, adm, found, store⟩⟩
  · exact law
  · rw [store]; exact law
  · rw [store]
    have number : (x.reconciled adm).number = w.group := (Store.mem_of_find found).2
    exact law.of_records rfl (Store.find_put_record (x := x) (by rw [number]; exact found) rfl)

theorem installation_listLaw (law : s.store.ListLaw) (h : execInstallation s = .next t) : t.store.ListLaw := by
  rcases execInstallation_cases h with rfl | ⟨-, ⟨g, r, snapshot, -, store⟩ | ⟨g, snapshot, -, store⟩⟩
  · exact law
  · have find := fun k => (Store.find_congr (st' := t.store) (by rw [store]) k).trans
      (s.store.find_put_number (installed_number g r (s.store.modeOf g) fun u => snapshot.contains u) k)
    exact law.relist g (fun u => r.names u) (by rw [store]) (Store.namesUplink_of_find ((find g).trans (if_pos rfl)))
      fun k other => (find k).trans (if_neg other)
  · have find := fun k => (Store.find_congr (st' := t.store) (by rw [store]) k).trans (s.store.find_remove g k)
    exact law.relist g _ (by rw [store]) (Store.namesUplink_of_none ((find g).trans (if_pos rfl))) fun k other =>
      (find k).trans (if_neg other)

theorem exec_listLaw (c : Instr) (law : s.store.ListLaw) (h : exec c s = .next t) : t.store.ListLaw := by
  have kept : t.tables = s.tables → t.store.ListLaw := fun same => (State.tables_eq same).1 ▸ law
  have put : ∀ (g : GroupNo) (k : PendingKind), t.tables = (s.putPending g k).tables → t.store.ListLaw := fun g k same => by
    obtain ⟨pool, store, -⟩ := s.putPending_pool g k
    rw [(State.tables_eq same).1, store]
    exact law.of_records rfl fun _ => rfl
  cases reset : c.canReset with
  | true =>
    rcases exec_canReset_tables c reset h with same | cold | warm
    · exact kept same
    · rw [show t.store = Store.cold from congrArg Prod.fst cold]
      exact reset_listLaw
    · rw [show t.store = { s.store with pool := [] } from congrArg Prod.fst warm]
      exact law.of_records rfl fun _ => rfl
  | false =>
    cases on : c.onTables with
    | false => exact kept (exec_tables c on reset h)
    | true =>
      cases c with
      | arbiterTake =>
        rcases execArbiterTake_cases h with rfl | ⟨store, -⟩ | ⟨g, kind, snapshot, -, store, -⟩
        · exact law
        · rw [store]; exact law
        · rw [store]; exact law.of_records rfl fun _ => rfl
      | reconcile time => exact reconcile_listLaw law time h
      | installation => exact installation_listLaw law h
      | commit b0 b1 => exact (execCommit_cases b0 b1 h).elim kept fun passed => put _ _ passed.2
      | release b0 b1 => exact (execRelease_cases b0 b1 h).elim kept (put _ _)
      | _ => cases on

/-- Settles O31: only an installation or a release changes what a group names, and the lists change with it. -/
theorem memberListLawIsKept : Obligations.MemberListLawIsKept := by
  intro s t law h
  unfold step at h
  split at h
  · obtain rfl := Host.Outcome.next.inj h
    exact law
  · next c rest _ => exact exec_listLaw (s := s.withPending rest) c law h

end Sys2Proof.Machine
end

section
/-! Walks, snapshots and the completion of a job (R93, R113, R114, R124). -/

namespace Sys2Proof.Machine

/-! ### Walks (R114) -/

/-- The next group of a walk is the lowest of an ascending list above the position. -/
theorem nextAbove_least (position : Option GroupNo) (list : List GroupNo) (asc : list.Pairwise (· < ·)) (g : GroupNo)
    (next : nextAbove position list = some g) : ∀ h ∈ list, (∀ p, position = some p → p < h) → g ≤ h := by
  intro h mem above
  cases position with
  | none =>
    cases list with
    | nil => cases mem
    | cons x rest =>
      obtain rfl : x = g := Option.some.inj next
      rcases List.mem_cons.1 mem with rfl | later
      · exact le_rfl
      · exact ((List.pairwise_cons.1 asc).1 h later).le
  | some p =>
    obtain ⟨-, front, back, rfl, first⟩ := List.find?_eq_some_iff_append.1 (show list.find? _ = some g from next)
    rcases List.mem_append.1 mem with before | after
    · exact absurd (above p rfl) (by simpa using first h before)
    · rcases List.mem_cons.1 after with rfl | later
      · exact le_rfl
      · exact ((List.pairwise_cons.1 (List.pairwise_append.1 asc).2.1).1 h later).le

/-- A walk has no next group only where no group of the list lies above its position. -/
theorem nextAbove_eq_none (position : Option GroupNo) (list : List GroupNo) (next : nextAbove position list = none) :
    ∀ h ∈ list, ¬ ∀ p, position = some p → p < h := by
  intro h mem above
  cases position with
  | none => rw [List.head?_eq_none_iff.1 (show list.head? = none from next)] at mem; cases mem
  | some p => exact (nextAbove_none p list).1 next h mem (above p rfl)

/-! ### Snapshots (R93) -/

theorem EntryState.isAdmitted_iff (x : EntryState) : x.isAdmitted = true ↔ x = .admitted := by
  cases x <;> simp [EntryState.isAdmitted]

/-- A snapshot holds the uplinks a record names whose entry is ADMITTED. -/
theorem State.mem_snapshotOf (s : State) (r : Record) (u : Uplink) : u ∈ s.snapshotOf r ↔ s.view.entries[u].state = .admitted ∧
    (r.escape = some u ∨ ∃ (i : MemberIdx) (seat : Seat), r.seats[i] = some seat ∧ seat.uplink = u) := by
  rw [State.snapshotOf, List.mem_filter, Record.mem_named, State.isAdmitted, EntryState.isAdmitted_iff]
  exact and_comm

theorem State.snapshotFor_eq (s : State) (g : GroupNo) : s.snapshotFor g = ((s.store.find g).map fun x => s.snapshotOf x.record).getD [] := by
  unfold State.snapshotFor
  cases s.store.find g <;> rfl

/-! ### The end of a job (R113, R124) -/

/-- The job ends, and where no entry waits the settle deadline of an open episode is set. -/
theorem State.completeJob_eq (s : State) : s.completeJob = { s with engine := { s.engine with
    job := none
    completed := s.engine.completed + 1#16
    episode := if s.engine.worklistLength = 0 then s.engine.episode.map fun e =>
        { e with settle := some (s.clock.now + 1000 * s.start.settings.settleTime) }
      else s.engine.episode } } := by
  have same : ∀ e : Engine, ({ e with job := none, completed := e.completed + 1#16 } : Engine).worklistLength = e.worklistLength :=
    fun _ => rfl
  unfold State.completeJob State.startSettling
  simp only [Engine.atRest, State.withEngine_engine, same, Option.isNone_none, Bool.true_and, beq_iff_eq]
  split <;> rfl

/-- A walk from a state: at its first group above the position with a snapshot, or complete (R113, R114). -/
theorem State.walkOn_eq (s : State) (job : Job) (position : Option GroupNo) : s.walkOn job position =
    match nextAbove position (s.walkList job) with
    | some g => s.withEngine { s.engine with job := some (job.withWalk ⟨position, g, s.snapshotFor g⟩) }
    | none => s.completeJob := by
  unfold State.walkOn
  cases nextAbove position (s.walkList job) <;> rfl

end Sys2Proof.Machine
end

section
/-! The arbiter's take (R112, R113, R119). -/

namespace Sys2Proof.Machine

variable {s : State}

theorem exec_arbiterTake_busy (busy : s.engine.job ≠ none) : exec .arbiterTake s = .next s := by
  obtain ⟨job, running⟩ := Option.ne_none_iff_exists'.1 busy
  change execArbiterTake s = .next s
  simp only [execArbiterTake, running]

/-- Nothing that may be taken changes nothing (log 3). -/
theorem exec_arbiterTake_none (choice : s.arbiterChoice = none) : exec .arbiterTake s = .next s := by
  change execArbiterTake s = .next s
  unfold execArbiterTake
  cases s.engine.job <;> simp only [choice]

theorem exec_arbiterTake_some {taken : Taken} (idle : s.engine.job = none) (choice : s.arbiterChoice = some taken) :
    exec .arbiterTake s = .next (s.begin taken) := by
  change execArbiterTake s = .next (s.begin taken)
  simp only [execArbiterTake, idle, choice]

/-! ### The choice (R112) -/

/-- In SERVE the choice is the first of URGENT, SWEEP, BUILD and CALM. -/
theorem State.arbiterChoice_serve (phase : s.start.phase = .serve) : s.arbiterChoice =
    ((s.engine.urgent.head?.map Taken.urgent).or (s.engine.sweep.map Taken.sweep)).or
      ((s.engine.build.head?.map Taken.build).or (s.engine.calm.head?.map Taken.calm)) := by
  simp only [State.arbiterChoice, phase]

theorem State.arbiterChoice_listen {deadline : Nat} (phase : s.start.phase = .listen deadline) :
    s.arbiterChoice = s.engine.build.head?.map Taken.build := by
  simp only [State.arbiterChoice, phase]

theorem State.arbiterChoice_loading (loading : s.isLoading = true) : s.arbiterChoice = none := by
  unfold State.isLoading at loading
  unfold State.arbiterChoice
  cases phase : s.start.phase <;> rw [phase] at loading <;> first | rfl | cases loading

/-- An empty worklist offers nothing in SERVE. -/
theorem State.arbiterChoice_empty (phase : s.start.phase = .serve) (empty : s.engine.worklistLength = 0) :
    s.arbiterChoice = none := by
  simp only [Engine.worklistLength, Nat.add_eq_zero_iff, List.length_eq_zero_iff] at empty
  obtain ⟨⟨⟨urgent, calm⟩, build⟩, sweep⟩ := empty
  have none : s.engine.sweep = none := by
    cases h : s.engine.sweep with
    | none => rfl
    | some e => rw [h] at sweep; cases sweep
  rw [State.arbiterChoice_serve phase, urgent, none, build, calm]
  rfl

/-! ### BUILD (R119) -/

/-- The snapshot of a BUILD job: over the record it installs; a release asks for none. -/
def State.buildSnapshot (s : State) : PendingKind → List Uplink
  | .record r => s.snapshotOf r
  | .release => []

/-- A BUILD entry leaves its queue as its record leaves the pool. -/
theorem State.beginBuild_eq {g : GroupNo} {rest : List GroupNo} {kind : PendingKind} (law : s.WorkLaw)
    (build : s.engine.build = g :: rest) (pending : s.store.pendingFor g = some kind) : s.beginBuild g = { s with
      store := { s.store with pool := s.store.pool.filter fun x => x.group != g }
      engine := { s.engine with
        build := rest
        job := some (.build g kind (s.buildSnapshot kind)) } } := by
  have fresh : g ∉ rest := (List.nodup_cons.1 (build ▸ law.builds)).1
  have queue : (s.engine.build.filter fun h => h != g) = rest := by
    rw [build, List.filter_cons_of_neg (by simp), List.filter_eq_self.2 fun h mem => by
      simpa using fun same : h = g => fresh (same ▸ mem)]
  simp only [State.beginBuild, pending, queue]
  cases kind <;> rfl

/-- Settles O32: the choice class by class, and the job of each class as it begins. -/
theorem arbiterTakesTheFirstEntry : Obligations.ArbiterTakesTheFirstEntry := by
  refine ⟨fun position list asc => ?_, fun s => ?_⟩
  · dsimp only
    split
    · next g next =>
      obtain ⟨mem, above⟩ := nextAbove_some position list g next
      exact ⟨mem, above, nextAbove_least position list asc g next⟩
    · next next => exact nextAbove_eq_none position list next
  refine ⟨s.mem_snapshotOf, fun g => ?_, ?_⟩
  · unfold State.snapshotFor
    cases s.store.find g <;> rfl
  intro complete walk
  have walks : ∀ (r : State) (job : Walk → Job) (position : Option GroupNo) (list : List GroupNo), r.store = s.store →
      r.view = s.view → r.walkList (job noWalk) = list → (∀ v w, (job v).withWalk w = job w) →
      r.walkOn (job noWalk) position = walk r job position list := by
    intro r job position list store view rfl same
    have snapshots : r.snapshotFor = s.snapshotFor := by
      funext g
      simp only [State.snapshotFor_eq, State.snapshotOf, State.isAdmitted, store, view]
    cases next : nextAbove position (r.walkList (job noWalk)) with
    | none => simp only [State.walkOn_eq, State.completeJob_eq, next, walk, complete]
    | some g => simp only [State.walkOn_eq, same, snapshots, next, walk]
  refine ⟨exec_arbiterTake_busy, fun loading => exec_arbiterTake_none (State.arbiterChoice_loading loading),
    fun w rest idle phase urgent => ?_, fun e idle phase urgent sweep => ?_, fun g rest kind law idle build pending may => ?_,
    fun w rest idle phase urgent sweep build calm => ?_, fun nothing => ?_⟩
  · have choice : s.arbiterChoice = some (.urgent w) := by simp [State.arbiterChoice_serve phase, urgent]
    rw [exec_arbiterTake_some idle choice, State.begin, urgent, List.tail_cons]
    exact congrArg Host.Outcome.next (walks (s.withEngine _) (.urgent w.uplink) _ _ rfl rfl rfl fun _ _ => rfl)
  · have choice : s.arbiterChoice = some (.sweep e) := by simp [State.arbiterChoice_serve phase, urgent, sweep]
    rw [exec_arbiterTake_some idle choice]
    exact congrArg Host.Outcome.next (walks (s.withEngine _) .sweep _ _ rfl rfl rfl fun _ _ => rfl)
  · have choice : s.arbiterChoice = some (.build g) := by
      rcases may with ⟨phase, urgent, sweep⟩ | ⟨d, phase⟩
      · simp [State.arbiterChoice_serve phase, urgent, sweep, build]
      · simp [State.arbiterChoice_listen phase, build]
    rw [exec_arbiterTake_some idle choice, State.begin, State.beginBuild_eq law build pending]
    cases kind <;> rfl
  · have choice : s.arbiterChoice = some (.calm w) := by simp [State.arbiterChoice_serve phase, urgent, sweep, build, calm]
    rw [exec_arbiterTake_some idle choice, State.begin, calm, List.tail_cons]
    exact congrArg Host.Outcome.next (walks (s.withEngine _) (.calm w.uplink) _ _ rfl rfl rfl fun _ _ => rfl)
  · refine exec_arbiterTake_none ?_
    rcases nothing with ⟨phase, empty⟩ | ⟨⟨d, phase⟩, build⟩
    · exact State.arbiterChoice_empty phase empty
    · simp [State.arbiterChoice_listen phase, build]

end Sys2Proof.Machine
end

section
/-! The replacement of a group and what it hands on (R95, R100 to R103, R123), and the group boundary of a walk (R116, R117). -/

namespace Sys2Proof.Machine

/-! ### The new group -/

/-- A spread of members is a requota where the tier stays and no record is installed, else a home fill (R95). -/
theorem newSpread_requota (r : Record) (m : List MemberIdx) (tier : ActiveTier) (old : Spread) :
    newSpread r (.members m) tier tier false old = requota r.weight m old := by
  simp [newSpread]

theorem newSpread_home (r : Record) (m : List MemberIdx) {oldTier newTier : ActiveTier} (old : Spread) (change : oldTier ≠ newTier) :
    newSpread r (.members m) oldTier newTier false old = homeFill r.weight m := by
  simp [newSpread, change]

theorem newSpread_install (r : Record) (m : List MemberIdx) (oldTier newTier : ActiveTier) (old : Spread) :
    newSpread r (.members m) oldTier newTier true old = homeFill r.weight m := rfl

theorem slotsMoved_eq (old new : Spread) : slotsMoved old new = (List.finRange 64).countP fun k => decide (old[k] ≠ new[k]) :=
  List.countP_congr fun _ _ => by simp

theorem Store.modeOf_eq (st : Store) (g : GroupNo) : st.modeOf g = match st.find g with
    | some x => x.mode
    | none => .unused := by
  unfold Store.modeOf
  cases st.find g <;> rfl

theorem Store.spreadFor_eq (st : Store) (g : GroupNo) : st.spreadFor g = match st.find g with
    | some x => x.spread
    | none => Vector.replicate 64 .empty := by
  unfold Store.spreadFor
  cases st.find g <;> rfl

/-! ### What the replacement hands on (R100, R101, R123) -/

/-- An open episode after a replacement. -/
def Episode.outcome (g : GroupNo) (moved : Nat) (e : Episode) : Episode :=
  { e with
    groups := if moved = 0 then e.groups else insertAsc g e.groups
    slotsMoved := min (e.slotsMoved + moved) 65535 }

/-- A replacement hands on a drop, a record and the slots moved, and nothing else. -/
theorem State.handOutcome_eq (g : GroupNo) (old new : Mode) (moved : Nat) (s : State) : s.handOutcome g old new moved = { s with
    lookup := { s.lookup with dropGroups := if moved = 0 then s.lookup.dropGroups else insertAsc g s.lookup.dropGroups }
    journal := if old = new then s.journal else s.journal.append ⟨.groupMode g new, s.clock.timeBase⟩
    engine := { s.engine with episode := s.engine.episode.map (Episode.outcome g moved) } } := by
  have outcome : Episode.outcome g moved = fun e => { e with
      groups := if moved = 0 then e.groups else insertAsc g e.groups
      slotsMoved := min (e.slotsMoved + moved) 65535 } := rfl
  unfold State.handOutcome
  by_cases still : moved = 0 <;> by_cases same : old = new <;> simp only [outcome, still, same, if_true, if_false] <;> rfl

/-! ### The group boundary (R116, R117) -/

/-- An episode whose settle deadline is set where the engine `e` is at rest (R124). -/
def Episode.settling (e : Engine) (deadline : Nat) (x : Episode) : Episode :=
  { x with settle := if e.job = none ∧ e.worklistLength = 0 then some deadline else x.settle }

theorem Engine.episode_kept {e : Engine} (deadline : Nat) (episode : Option Episode) (busy : ¬ (e.job = none ∧ e.worklistLength = 0)) :
    episode.map (Episode.settling e deadline) = episode := by
  cases episode with
  | none => rfl
  | some x => simp only [Option.map_some, Episode.settling, if_neg busy]

theorem Engine.episode_settled {e : Engine} {waiting : Nat} (deadline : Nat) (episode : Option Episode) (idle : e.job = none)
    (length : e.worklistLength = waiting) :
    (if waiting = 0 then episode.map fun x => { x with settle := some deadline } else episode) =
      episode.map (Episode.settling e deadline) := by
  subst length
  by_cases rest : e.worklistLength = 0
  · cases episode with
    | none => exact if_pos rest
    | some x => simp only [Option.map_some, Episode.settling, if_pos rest, if_pos (And.intro idle rest)]
  · rw [if_neg rest, Engine.episode_kept _ _ fun h => rest h.2]

theorem Engine.worklistLength_of_urgent {e : Engine} (urgent : e.urgent ≠ []) : e.worklistLength ≠ 0 := by
  have := List.length_pos_iff.2 urgent
  unfold Engine.worklistLength
  omega

section

variable (s : State) (job : Job) (position : GroupNo)

theorem State.boundary_none (next : nextAbove (some position) (s.walkList job) = none) : s.boundary job position = s.completeJob := by
  simp [State.boundary, next, State.walkOn]

theorem State.boundary_suspend {g : GroupNo} (next : nextAbove (some position) (s.walkList job) = some g)
    (may : job.suspendable = true) (urgent : s.engine.urgent ≠ []) : s.boundary job position = s.suspend job position := by
  simp [State.boundary, next, may, urgent]

theorem State.boundary_goOn {g : GroupNo} (next : nextAbove (some position) (s.walkList job) = some g)
    (stay : ¬ (job.suspendable = true ∧ s.engine.urgent ≠ [])) : s.boundary job position =
      s.withEngine { s.engine with job := some (job.withWalk ⟨some position, g, s.snapshotFor g⟩) } := by
  have kept : ¬ ((nextAbove (some position) (s.walkList job)).isSome && job.suspendable && !s.engine.urgent.isEmpty) = true := by
    simpa [next] using stay
  rw [State.boundary, if_neg kept, State.walkOn_eq, next]

/-- A CALM walk returns to the head of its class unless an entry waits for its uplink; a SWEEP returns (R117). -/
theorem State.suspend_calm (u : Uplink) (w : Walk) : s.suspend (.calm u w) position = s.withEngine { s.engine with
    job := none
    calm := if waitingIn s.engine.urgent u || waitingIn s.engine.calm u then s.engine.calm
      else ⟨u, some position⟩ :: s.engine.calm } := by
  unfold State.suspend
  dsimp only
  split <;> rfl

end

/-! ### The engine after a boundary -/

section

variable (s : State) (job : Job) (position : GroupNo)

/-- What the boundary of a walk makes of the engine (R116, R117). -/
structure State.Boundary (e : Engine) : Prop where
  urgent : e.urgent = s.engine.urgent
  build : e.build = s.engine.build
  discarded : e.discarded = s.engine.discarded
  episode : e.episode = s.engine.episode.map (Episode.settling e (s.clock.now + 1000 * s.start.settings.settleTime))
  none : nextAbove (some position) (s.walkList job) = none →
    e.job = none ∧ e.completed = s.engine.completed + 1#16 ∧ e.calm = s.engine.calm ∧ e.sweep = s.engine.sweep
  suspend : ∀ g, nextAbove (some position) (s.walkList job) = some g → job.suspendable = true → s.engine.urgent ≠ [] →
    e = (s.suspend job position).engine
  goOn : ∀ g, nextAbove (some position) (s.walkList job) = some g → ¬ (job.suspendable = true ∧ s.engine.urgent ≠ []) →
    e = { s.engine with job := some (job.withWalk ⟨some position, g, s.snapshotFor g⟩) }

theorem State.completeJob_boundary (next : nextAbove (some position) (s.walkList job) = none) :
    ∃ e, s.completeJob = s.withEngine e ∧ s.Boundary job position e := by
  have other : ∀ g, nextAbove (some position) (s.walkList job) ≠ some g := by simp [next]
  refine ⟨_, s.completeJob_eq, rfl, rfl, rfl, ?_, fun _ => ⟨rfl, rfl, rfl, rfl⟩, fun g h => absurd h (other g),
    fun g h => absurd h (other g)⟩
  exact Engine.episode_settled _ _ rfl rfl

theorem State.suspend_boundary {g : GroupNo} (next : nextAbove (some position) (s.walkList job) = some g)
    (may : job.suspendable = true) (urgent : s.engine.urgent ≠ []) :
    ∃ e, s.suspend job position = s.withEngine e ∧ s.Boundary job position e := by
  have waits : ∀ {e : Engine}, e.urgent = s.engine.urgent → ¬ (e.job = none ∧ e.worklistLength = 0) := fun same h =>
    Engine.worklistLength_of_urgent (by rw [same]; exact urgent) h.2
  have spec : ∀ e : Engine, s.suspend job position = s.withEngine e → e.urgent = s.engine.urgent → e.build = s.engine.build →
      e.discarded = s.engine.discarded → e.episode = s.engine.episode → s.Boundary job position e :=
    fun e suspended same build discarded episode => ⟨same, build, discarded,
      episode.trans (Engine.episode_kept _ _ (waits same)).symm, fun h => (by rw [next] at h; cases h),
      fun _ _ _ _ => (congrArg State.engine suspended).symm, fun _ _ stay => absurd ⟨may, urgent⟩ stay⟩
  cases job with
  | calm u w => exact ⟨_, s.suspend_calm position u w, spec _ (s.suspend_calm position u w) rfl rfl rfl rfl⟩
  | sweep w => exact ⟨_, rfl, spec _ rfl rfl rfl rfl rfl⟩
  | urgent => cases may
  | build => cases may

/-- The boundary of a walk changes the engine alone. -/
theorem State.boundary_spec : ∃ e, s.boundary job position = s.withEngine e ∧ s.Boundary job position e := by
  cases next : nextAbove (some position) (s.walkList job) with
  | none =>
    rw [s.boundary_none job position next]
    exact s.completeJob_boundary job position next
  | some g =>
    by_cases may : job.suspendable = true ∧ s.engine.urgent ≠ []
    · rw [s.boundary_suspend job position next may.1 may.2]
      exact s.suspend_boundary job position next may.1 may.2
    · rw [s.boundary_goOn job position next may]
      refine ⟨_, rfl, rfl, rfl, rfl, (Engine.episode_kept _ _ fun h => ?_).symm, fun h => ?_,
        fun _ _ m u => absurd ⟨m, u⟩ may, fun h same _ => ?_⟩
      · cases h.1
      · rw [next] at h; cases h
      · rw [next] at same; cases same; rfl

end

end Sys2Proof.Machine
end

section
/-! RECONCILE and INSTALLATION whole (R93, R101 to R103, R115, R116, R119, R123, R124). -/

namespace Sys2Proof.Machine

variable {s : State}

/-- A group reconciled, field by field (R94, R95). -/
theorem Group.reconciled_eq (x : Group) (adm : Uplink → Bool) : x.reconciled adm = { x with
    mode := (tierChoice x.record x.mode adm).1
    tier := (tierChoice x.record x.mode adm).1.activeTier
    set := (tierChoice x.record x.mode adm).2
    spread := match (tierChoice x.record x.mode adm).2 with
      | .members m => if x.tier = (tierChoice x.record x.mode adm).1.activeTier then requota x.record.weight m x.spread
          else homeFill x.record.weight m
      | .escape => Vector.replicate 64 .escape
      | .empty => Vector.replicate 64 .empty } := by
  unfold Group.reconciled
  dsimp only
  generalize (tierChoice x.record x.mode adm).2 = set
  generalize (tierChoice x.record x.mode adm).1.activeTier = tier
  cases set with
  | members m =>
    dsimp only
    by_cases same : x.tier = tier
    · rw [if_pos same, same, newSpread_requota]
    · rw [if_neg same, newSpread_home _ _ _ same]
  | escape => rfl
  | empty => rfl

/-- What a job that runs says of an open episode: it has no settle deadline (R124). -/
theorem State.EpisodeLaw.unsettled (law : s.EpisodeLaw) {e : Episode} {job : Job} (opened : s.engine.episode = some e)
    (running : s.engine.job = some job) : e.settle = none := by
  have busy : ¬ s.engine.atRest = true := by simp [Engine.atRest, running]
  exact Option.not_isSome_iff_eq_none.1 (mt (law.settle e opened).1 busy)

/-- The reconcile of a group, whole (R101, R123). -/
theorem State.reconcileGroup_eq {g : GroupNo} {x : Group} (found : s.store.find g = some x) (snapshot : List Uplink) {y : Group}
    (new : x.reconciled (fun u => snapshot.contains u) = y) : s.reconcileGroup g snapshot = { s with
      store := s.store.put y
      lookup := { s.lookup with
        dropGroups := if slotsMoved x.spread y.spread = 0 then s.lookup.dropGroups else insertAsc g s.lookup.dropGroups }
      journal := if x.mode = y.mode then s.journal else s.journal.append ⟨.groupMode g y.mode, s.clock.timeBase⟩
      engine := { s.engine with episode := s.engine.episode.map (Episode.outcome g (slotsMoved x.spread y.spread)) } } := by
  subst new
  simp only [State.reconcileGroup, found, State.handOutcome_eq]
  rfl

theorem State.snapshotAt_eq (time : SnapshotTime) (w : Walk) (s : State) : s.snapshotAt time w = match time with
    | .early => w.snapshot
    | .late => s.snapshotFor w.group := by
  cases time <;> rfl

/-- Settles O33: the reconcile of the group, and then the boundary, which changes the engine alone. -/
theorem reconcileReplacesTheGroupWhole : Obligations.ReconcileReplacesTheGroupWhole := by
  refine ⟨fun r g u => ?_, fun time job w x s running walks found => ?_⟩
  · rw [State.snapshotFor_eq]
    cases r.store.find g <;> simp [State.mem_snapshotOf]
  intro snapshot choice weight y moved position suspendable list
  have snap : s.snapshotAt time w = snapshot := s.snapshotAt_eq time w
  have weights : weight = x.record.weight := Record.weight_eq x.record
  have new : x.reconciled (fun u => snapshot.contains u) = y := by
    have fields := x.reconciled_eq fun u => snapshot.contains u
    rw [← weights] at fields
    exact fields
  have number : y.number = w.group := (Store.mem_of_find found).2
  have count : slotsMoved x.spread y.spread = moved := slotsMoved_eq _ _
  have whole := State.reconcileGroup_eq found snapshot new
  rw [count] at whole
  have may : job.suspendable = suspendable := by cases job <;> rfl
  have lists : (s.reconcileGroup w.group snapshot).walkList job = list (s.store.put y).groups := by
    rw [whole]
    cases job with
    | build => cases walks
    | _ => rfl
  have exec : exec (.reconcile time) s = .next ((s.reconcileGroup w.group snapshot).boundary job w.group) := by
    change execReconcile time s = _
    simp only [execReconcile, running, walks, snap]
  have find := s.store.find_put_number number
  obtain ⟨e, frame, spec⟩ := (s.reconcileGroup w.group snapshot).boundary_spec job w.group
  rw [frame] at exec
  obtain ⟨urgent, build, discarded, episode, atEnd, suspended, goesOn⟩ := spec
  rw [lists] at atEnd suspended goesOn
  refine ⟨_, exec, ?_⟩
  rw [whole] at *
  refine ⟨(find _).trans (if_pos rfl), fun g other => (find g).trans (if_neg other), rfl, rfl, rfl, rfl, fun x opened => ?_,
    fun closed => ?_, discarded, urgent, build, ?_, rfl, rfl, rfl, rfl, rfl, rfl, rfl, rfl, rfl, rfl⟩
  · have after := episode.trans (congrArg (fun o : Option Episode => (o.map (Episode.outcome w.group moved)).map _) opened)
    refine ⟨_, after, rfl, rfl, rfl, rfl, rfl, fun law busy => ?_⟩
    have kept : ¬ (e.job = none ∧ e.worklistLength = 0) := by tauto
    exact (if_neg kept).trans (law.unsettled (e := x) opened running)
  · exact episode.trans (congrArg (fun o : Option Episode => (o.map (Episode.outcome w.group moved)).map _) closed)
  · have next : (list (s.store.put y).groups).find? (fun g => decide (w.group < g)) =
        nextAbove position (list (s.store.put y).groups) := rfl
    dsimp only [State.withEngine_store, State.withEngine_engine]
    rw [next]
    cases above : nextAbove position (list (s.store.put y).groups) with
    | none => exact atEnd above
    | some g =>
      dsimp only
      by_cases stop : suspendable = true ∧ s.engine.urgent ≠ []
      · have engine := suspended g above (may.trans stop.1) stop.2
        rw [if_pos stop]
        cases job with
        | calm u v =>
          rw [State.suspend_calm] at engine
          subst engine
          exact ⟨rfl, rfl, rfl, rfl⟩
        | sweep v =>
          subst engine
          exact ⟨rfl, rfl, rfl, rfl⟩
        | urgent => exact absurd stop.1 Bool.false_ne_true
        | build => exact absurd stop.1 Bool.false_ne_true
      · have engine := goesOn g above (by rw [may]; exact stop)
        rw [if_neg stop]
        subst engine
        cases job with
        | build => cases walks
        | _ => exact ⟨rfl, rfl, rfl, rfl⟩

/-! ### Installation (R102, R103) -/

/-- The group an installation gives, field by field: its fill is a home fill (R102). -/
theorem installed_eq (g : GroupNo) (r : Record) (oldMode : Mode) (adm : Uplink → Bool) : installed g r oldMode adm =
    { number := g
      record := r
      mode := (tierChoice r oldMode adm).1
      tier := (tierChoice r oldMode adm).1.activeTier
      set := (tierChoice r oldMode adm).2
      spread := match (tierChoice r oldMode adm).2 with
        | .members m => homeFill r.weight m
        | .escape => Vector.replicate 64 .escape
        | .empty => Vector.replicate 64 .empty } := by
  unfold installed
  dsimp only
  cases (tierChoice r oldMode adm).2 <;> rfl

/-- What an installation of `new` for group `g` makes of the state, before its job completes (R102, R103, R123). -/
def State.installedAs (g : GroupNo) (groups : List Group) (names : Uplink → Bool) (mode : Mode) (spread : Spread) (s : State) : State :=
  { s with
    store := { s.store with
      groups := groups
      memberLists := relist g (fun u => s.store.namesUplink g u) names s.store.memberLists }
    lookup := { s.lookup with
      dropGroups := if slotsMoved (s.store.spreadFor g) spread = 0 then s.lookup.dropGroups else insertAsc g s.lookup.dropGroups }
    journal := if s.store.modeOf g = mode then s.journal else s.journal.append ⟨.groupMode g mode, s.clock.timeBase⟩
    engine := { s.engine with
      episode := s.engine.episode.map (Episode.outcome g (slotsMoved (s.store.spreadFor g) spread)) } }

theorem State.installGroup_eq (g : GroupNo) (r : Record) (snapshot : List Uplink) (s : State) {y : Group}
    (new : installed g r (s.store.modeOf g) (fun u => snapshot.contains u) = y) :
    s.installGroup g r snapshot = s.installedAs g (s.store.put y).groups r.names y.mode y.spread := by
  subst new
  simp only [State.installGroup, State.handOutcome_eq]
  rfl

theorem State.releaseGroup_eq (g : GroupNo) (s : State) :
    s.releaseGroup g = s.installedAs g (s.store.remove g).groups (fun _ => false) .unused emptySpread := by
  simp only [State.releaseGroup, State.handOutcome_eq]
  rfl

/-- A completed installation, block by block: its job ends where it changes the store (R119, R124). -/
theorem State.installedAs_complete (g : GroupNo) (groups : List Group) (names : Uplink → Bool) (mode : Mode) (spread : Spread) :
    let r := s.installedAs g groups names mode spread
    r.completeJob = { r with engine := { s.engine with
      job := none
      completed := s.engine.completed + 1#16
      episode := s.engine.episode.map fun e => { e.outcome g (slotsMoved (s.store.spreadFor g) spread) with
        settle := if s.engine.worklistLength = 0 then some (s.clock.now + 1000 * s.start.settings.settleTime)
          else e.settle } } } := by
  intro r
  rw [State.completeJob_eq]
  have length : r.engine.worklistLength = s.engine.worklistLength := rfl
  have episode : r.engine.episode = s.engine.episode.map (Episode.outcome g (slotsMoved (s.store.spreadFor g) spread)) := rfl
  rw [length, episode]
  by_cases rest : s.engine.worklistLength = 0
  · simp only [rest, if_true, Option.map_map]
    rfl
  · simp only [rest, if_false]
    rfl

/-- The uplinks that a group's record names once a pending record of this kind is installed (R102, R103). -/
def PendingKind.names : PendingKind → Uplink → Bool
  | .record r => r.names
  | .release => fun _ => false

/-- Settles O34: an installation of a record and one of a release change the same blocks, each once. -/
theorem installationReplacesRecordAndLists : Obligations.InstallationReplacesRecordAndLists := by
  intro g kind snapshot s running law oldMode oldSpread new newSpread moved newMode
  have mode : s.store.modeOf g = oldMode := s.store.modeOf_eq g
  have spread : s.store.spreadFor g = oldSpread := s.store.spreadFor_eq g
  obtain ⟨groups, exec, find⟩ : ∃ groups,
      exec .installation s = .next (s.installedAs g groups kind.names newMode newSpread).completeJob ∧
      ∀ st : Store, st.groups = groups → ∀ h, st.find h = if h = g then new else s.store.find h := by
    cases kind with
    | record r =>
      have weights : (fun i : MemberIdx => match r.seats[i] with | some seat => seat.weight | none => 0) = r.weight :=
        Record.weight_eq r
      have fields := installed_eq g r (s.store.modeOf g) fun u => snapshot.contains u
      rw [← weights, mode] at fields
      have same : new = some (installed g r oldMode fun u => snapshot.contains u) := congrArg some fields.symm
      refine ⟨(s.store.put (installed g r oldMode fun u => snapshot.contains u)).groups, ?_, fun st groups h => ?_⟩
      · change execInstallation s = _
        simp only [execInstallation, running, State.installGroup_eq, mode, newMode, newSpread, same]
        rfl
      · rw [same]
        exact (Store.find_congr (st := s.store.put (installed g r oldMode fun u => snapshot.contains u)) groups h).trans
          (s.store.find_put_number (installed_number g r oldMode _) h)
    | release =>
      refine ⟨(s.store.remove g).groups, ?_, fun st groups h => (Store.find_congr groups h).trans (s.store.find_remove g h)⟩
      change execInstallation s = _
      simp only [execInstallation, running, State.releaseGroup_eq]
      rfl
  refine ⟨_, exec, ?_⟩
  rw [State.installedAs_complete]
  have count : slotsMoved (s.store.spreadFor g) newSpread = moved := by rw [spread]; exact slotsMoved_eq _ _
  unfold State.installedAs
  rw [count, mode]
  refine ⟨(find _ rfl g).trans (if_pos rfl), fun h other => (find _ rfl h).trans (if_neg other), rfl, fun u h => ?_, rfl, rfl,
    fun e opened => ⟨_, congrArg (Option.map _) opened, rfl, rfl, rfl, rfl, rfl, fun episodes waiting =>
      (if_neg waiting).trans (episodes.unsettled opened running)⟩, fun closed => congrArg (Option.map _) closed, rfl, rfl, rfl, rfl,
    rfl, rfl, rfl, rfl, rfl, rfl, rfl, rfl, rfl, rfl, rfl, rfl, rfl⟩
  rw [law.mem_relist g kind.names u h]
  by_cases here : h = g
  · rw [if_pos here, if_pos here]
    cases kind with
    | record r => exact Iff.rfl
    | release => exact iff_of_false Bool.false_ne_true id
  · rw [if_neg here, if_neg here]

end Sys2Proof.Machine
end

section
/-! The responses of STATUS and the four reads, field by field (R104, R151, R152, R154, sections 12.1 and 12.4). -/

namespace Sys2Proof.Machine

/-! ### Fields put one after another -/

/-- The number of two fields, the first one above the second. -/
theorem fields_toNat {m n : Nat} (x : BitVec m) (y : BitVec n) : (x ++ y).toNat = x.toNat * 2 ^ n + y.toNat := by
  rw [BitVec.toNat_append, ← Nat.shiftLeft_add_eq_or_of_lt y.isLt, Nat.shiftLeft_eq]

theorem bit_toNat (b : Bool) : (bit b).toNat = b.toNat := BitVec.toNat_ofBool b

/-- A byte is the byte of the number it has, up to what a byte holds. -/
theorem byte_eq {b : Byte} {n : Nat} (number : b.toNat = n % 256) : b = BitVec.ofNat 8 n :=
  BitVec.eq_of_toNat_eq (number.trans (BitVec.toNat_ofNat n 8).symm)

/-- A 16-bit value in two bytes, the high one first. -/
theorem bytesOf_eq (w : BitVec 16) : bytesOf w = [BitVec.ofNat 8 (w.toNat / 256), BitVec.ofNat 8 w.toNat] := by
  have high : w.extractLsb' 8 8 = BitVec.ofNat 8 (w.toNat / 256) := byte_eq (by
    rw [BitVec.extractLsb'_toNat, Nat.shiftRight_eq_div_pow])
  have low : w.extractLsb' 0 8 = BitVec.ofNat 8 w.toNat := byte_eq (by
    rw [BitVec.extractLsb'_toNat, Nat.shiftRight_zero])
  rw [bytesOf, high, low]

/-- A number in two bytes; the bits above 16 are in neither. -/
theorem bytesOf_ofNat (n : Nat) : bytesOf (BitVec.ofNat 16 n) = [BitVec.ofNat 8 (n / 256), BitVec.ofNat 8 n] := by
  have high : BitVec.ofNat 8 ((BitVec.ofNat 16 n).toNat / 256) = BitVec.ofNat 8 (n / 256) := BitVec.eq_of_toNat_eq (by
    simp only [BitVec.toNat_ofNat]; omega)
  have low : BitVec.ofNat 8 (BitVec.ofNat 16 n).toNat = BitVec.ofNat 8 n := BitVec.eq_of_toNat_eq (by
    simp only [BitVec.toNat_ofNat]; omega)
  rw [bytesOf_eq, high, low]

theorem length_flatMap_finRange {α : Type} {m n : Nat} (f : Fin m → List α) (each : ∀ i, (f i).length = n) :
    ((List.finRange m).flatMap f).length = m * n := by
  simp [List.length_flatMap, each]

/-! ### STATUS -/

/-- The first byte of STATUS (R154). -/
theorem status_byte (spare : BitVec 1) (ctl : BitVec 3) (draining busy : Bool) (phase : BitVec 2) :
    spare ++ ctl ++ bit draining ++ bit busy ++ phase =
      BitVec.ofNat 8 (128 * spare.toNat + 16 * ctl.toNat + 8 * draining.toNat + 4 * busy.toNat + phase.toNat) := byte_eq (by
  simp only [fields_toNat, bit_toNat]
  have := spare.isLt
  have := ctl.isLt
  have := draining.toNat_lt
  have := busy.toNat_lt
  have := phase.isLt
  omega)

/-- STATUS by the numbers of its codes (R154). -/
theorem State.statusBytes_eq (s : State) {ctl busy phase : Nat} (hctl : s.bus.ctl.code.toNat = ctl)
    (hbusy : s.engine.job.isSome.toNat = busy) (hphase : s.start.phase.code.toNat = phase) : s.statusBytes =
      [BitVec.ofNat 8 (128 * (s.freeBit 0).toNat + 16 * ctl + 8 * s.view.draining.toNat + 4 * busy + phase),
        BitVec.ofNat 8 s.engine.worklistLength] ++
      [BitVec.ofNat 8 (s.engine.completed.toNat / 256), BitVec.ofNat 8 s.engine.completed.toNat] ++
      [BitVec.ofNat 8 (s.journal.lost.toNat / 256), BitVec.ofNat 8 s.journal.lost.toNat] := by
  subst hctl hbusy hphase
  rw [State.statusBytes, status_byte, bytesOf_eq, bytesOf_eq]

/-! ### READ_GROUP and READ_SPREAD -/

/-- An UNUSED group reads 0 from byte 2 on but for its pending flag (R151). -/
theorem State.groupBytes_unused {s : State} {g : GroupNo} (unused : s.store.find g = none) : s.groupBytes g =
    [0#8, 3#8, 0#8, if s.store.pendingFlag g = true then 2#8 else 0#8] ++ List.replicate 26 0#8 := by
  unfold State.groupBytes
  rw [unused]
  cases s.store.pendingFlag g <;> rfl

theorem State.spreadBytes_unused {s : State} {g : GroupNo} (unused : s.store.find g = none) :
    s.spreadBytes g = List.replicate 64 15#8 := by
  simp [State.spreadBytes, Store.spreadFor, unused, emptySpread, Occupant.code]

theorem State.spreadBytes_used {s : State} {g : GroupNo} {x : Group} (found : s.store.find g = some x) :
    s.spreadBytes g = (List.finRange 64).map fun k => x.spread[k].code := by
  have spread : s.store.spreadFor g = x.spread := by simp [Store.spreadFor, found]
  rw [State.spreadBytes, spread]
  refine List.ext_getElem (by simp) fun n _ _ => ?_
  simp

/-- The slot counts as READ_GROUP gives them: of the members by index, then of the escape (R104). -/
def slotCounts (sp : Spread) : List Byte :=
  ((List.finRange 8).map fun i => BitVec.ofNat 8 (slotCount sp (.member i))) ++ [BitVec.ofNat 8 (slotCount sp .escape)]

/-- The first 21 bytes of READ_GROUP for a used group. -/
def State.headBytes (s : State) (x : Group) : List Byte :=
  [x.mode.code, x.tier.code, x.set.byte,
    BitVec.ofNat 4 x.record.minLive ++ s.freeBit 9 ++ bit (!x.record.revertive) ++ bit (s.store.pendingFlag x.number) ++
      bit (x.set == .escape),
    escapeByte (s.free 8) x.record.escape] ++
  (List.finRange 8).flatMap fun i => placeBytes (s.free i.val) i x.record.seats[i]

theorem placeBytes_length (free : Byte) (i : MemberIdx) (seat : Option Seat) : (placeBytes free i seat).length = 2 := by
  cases seat <;> rfl

theorem State.headBytes_length (s : State) (x : Group) : (s.headBytes x).length = 21 := by
  rw [State.headBytes, List.length_append, length_flatMap_finRange _ fun i => placeBytes_length _ i _]
  rfl

theorem slotCounts_length (sp : Spread) : (slotCounts sp).length = 9 := by simp [slotCounts]

/-- READ_GROUP of a used group: what it is, then its slot counts (R104, R151). -/
theorem State.groupBytes_used {s : State} {x : Group} (found : s.store.find x.number = some x) :
    s.groupBytes x.number = s.headBytes x ++ slotCounts x.spread := by
  unfold State.groupBytes
  rw [found]
  exact List.append_assoc _ _ _

theorem State.groupBytes_length (s : State) (g : GroupNo) : (s.groupBytes g).length = 30 := by
  cases found : s.store.find g with
  | none => rw [State.groupBytes_unused found]; rfl
  | some x =>
    obtain ⟨-, rfl⟩ := Store.mem_of_find found
    rw [State.groupBytes_used found, List.length_append, State.headBytes_length, slotCounts_length]

/-- A group in the list is the one found under its number, the numbers being ascending. -/
theorem State.GroupLaw.find {s : State} (law : s.GroupLaw) {x : Group} (mem : x ∈ s.store.groups) :
    s.store.find x.number = some x := by
  have once : (s.store.groups.map fun y => y.number).Nodup := law.ascending.imp fun lt => ne_of_lt lt
  cases found : s.store.find x.number with
  | none => exact absurd (beq_self_eq_true x.number) (List.find?_eq_none.1 found x mem)
  | some y =>
    obtain ⟨memY, same⟩ := Store.mem_of_find found
    rw [List.inj_on_of_nodup_map once memY mem same]

theorem one_shift_bit (i j : Fin 8) : (1#8 <<< i.val).getLsbD j = decide (j = i) := by
  revert i j
  decide

/-- Bit j of the set byte says whether j is in the set (R151). -/
theorem foldl_set_bit (l : List MemberIdx) (b : Byte) (j : Fin 8) :
    (l.foldl (fun b i => b ||| (1#8 <<< i.val)) b).getLsbD j = (b.getLsbD j || decide (j ∈ l)) := by
  induction l generalizing b with
  | nil => simp
  | cons i l ih =>
    rw [List.foldl_cons, ih, BitVec.getLsbD_or, one_shift_bit]
    simp [Bool.or_assoc]

/-- A byte is the sum of the powers of two at its bits. -/
theorem sum_bits (b : Byte) : ((List.finRange 8).map fun i => if b.getLsbD i.val = true then 2 ^ i.val else 0).sum = b.toNat := by
  revert b
  decide

/-- The set byte has bit i set for member index i (R151). -/
theorem ActiveSet.byte_members (m : List MemberIdx) :
    (ActiveSet.members m).byte = BitVec.ofNat 8 ((List.finRange 8).map fun i => if i ∈ m then 2 ^ i.val else 0).sum := by
  have bits : (fun i : MemberIdx => if i ∈ m then 2 ^ i.val else 0) =
      fun i => if (ActiveSet.members m).byte.getLsbD i.val = true then 2 ^ i.val else 0 := by
    funext i
    have bit : (ActiveSet.members m).byte.getLsbD i.val = decide (i ∈ m) := by
      rw [ActiveSet.byte, foldl_set_bit]
      simp
    simp only [bit, decide_eq_true_eq]
  rw [bits, sum_bits, BitVec.ofNat_toNat, BitVec.setWidth_eq]

/-- Byte 3 of READ_GROUP (R104, R151). -/
theorem options_byte (minLive : Nat) (spare : BitVec 1) (b c d : Bool) :
    BitVec.ofNat 4 minLive ++ spare ++ bit b ++ bit c ++ bit d =
      BitVec.ofNat 8 (16 * minLive + 8 * spare.toNat + 4 * b.toNat + 2 * c.toNat + d.toNat) := byte_eq (by
  simp only [fields_toNat, bit_toNat, BitVec.toNat_ofNat]
  have := spare.isLt
  have := b.toNat_lt
  have := c.toNat_lt
  have := d.toNat_lt
  omega)

/-- What stands above the slot counts, by the bytes of its codes (R151). -/
theorem State.headBytes_eq (s : State) (x : Group) {mode tier set escape : Byte} {inEscape : Nat} {seats : MemberIdx → List Byte}
    (hmode : x.mode.code = mode) (htier : x.tier.code = tier) (hset : x.set.byte = set)
    (hinEscape : (x.set == .escape).toNat = inEscape) (hescape : escapeByte (s.free 8) x.record.escape = escape)
    (hseats : ∀ i : MemberIdx, placeBytes (s.free i.val) i x.record.seats[i] = seats i) : s.headBytes x =
      [mode, tier, set, BitVec.ofNat 8 (16 * x.record.minLive + 8 * (s.freeBit 9).toNat + 4 * (!x.record.revertive).toNat +
        2 * (s.store.pendingFlag x.number).toNat + inEscape), escape] ++ (List.finRange 8).flatMap seats := by
  subst hmode htier hset hinEscape hescape
  rw [State.headBytes, options_byte, funext hseats]

theorem escapeByte_some (free : Byte) (e : Uplink) : escapeByte free (some e) = BitVec.ofNat 8 (128 + e.val) := byte_eq (by
  have := e.isLt
  simp only [escapeByte, fields_toNat, BitVec.toNat_ofFin, BitVec.toNat_ofNat]
  omega)

theorem escapeByte_none (free : Byte) : escapeByte free none = BitVec.ofNat 8 (free.extractLsb' 0 7).toNat := byte_eq (by
  have := (free.extractLsb' 0 7).isLt
  simp only [escapeByte, fields_toNat, BitVec.toNat_ofNat]
  omega)

theorem placeBytes_none (free : Byte) (i : MemberIdx) : placeBytes free i none = [BitVec.ofNat 8 (32 * i.val), free] := by
  have first : BitVec.ofFin (w := 3) i ++ 0#5 = BitVec.ofNat 8 (32 * i.val) := byte_eq (by
    have := i.isLt
    simp only [fields_toNat, BitVec.toNat_ofFin, BitVec.toNat_ofNat]
    omega)
  rw [placeBytes, first]

/-- A member place in the STAGE_MEMBER layout: its weight has five bits (R146, R151). -/
theorem placeBytes_some (free : Byte) (i : MemberIdx) (m : Seat) (weight : m.weight ≤ 16) {tier : Nat}
    (htier : (m.tier == .t1).toNat = tier) : placeBytes free i (some m) =
      [BitVec.ofNat 8 (32 * i.val + m.weight), BitVec.ofNat 8 (128 * tier + m.uplink.val)] := by
  subst htier
  have first : BitVec.ofFin (w := 3) i ++ BitVec.ofNat 5 m.weight = BitVec.ofNat 8 (32 * i.val + m.weight) := byte_eq (by
    have := i.isLt
    simp only [fields_toNat, BitVec.toNat_ofFin, BitVec.toNat_ofNat]
    omega)
  have second : bit (m.tier == .t1) ++ BitVec.ofFin (w := 7) m.uplink =
      BitVec.ofNat 8 (128 * (m.tier == .t1).toNat + m.uplink.val) := byte_eq (by
    have := m.uplink.isLt
    have := (m.tier == .t1).toNat_lt
    simp only [fields_toNat, bit_toNat, BitVec.toNat_ofFin]
    omega)
  rw [placeBytes, first, second]

/-! ### The slot counts (R90, R104) -/

theorem slotCount_eq_zero {sp : Spread} {o : Occupant} (other : ∀ k : Slot, sp[k] ≠ o) : slotCount sp o = 0 := by
  refine List.count_eq_zero.2 fun mem => ?_
  obtain ⟨n, hn, e⟩ := List.mem_iff_getElem.1 mem
  exact other ⟨n, by simpa using hn⟩ (by simpa using e)

theorem slotCount_eq_all {sp : Spread} {o : Occupant} (all : ∀ k : Slot, sp[k] = o) : slotCount sp o = 64 := by
  refine (List.count_eq_length.2 fun b mem => ?_).trans (by simp)
  obtain ⟨n, hn, e⟩ := List.mem_iff_getElem.1 mem
  exact (all ⟨n, by simpa using hn⟩).symm.trans (by simpa using e)

/-- What the table of R90 says of a group's set and its slots. -/
theorem Group.SpreadLaw.slots {x : Group} (law : x.SpreadLaw) : (∃ t m, x.set = .members m ∧ x.HoldsQuotas t m) ∨
    (x.set = .escape ∧ ∀ k : Slot, x.spread[k] = .escape) ∨ (x.set = .empty ∧ ∀ k : Slot, x.spread[k] = .empty) := by
  unfold Group.SpreadLaw at law
  cases mode : x.mode <;> rw [mode] at law
  case unused => exact law.elim
  case tier0 =>
    obtain ⟨-, m, set, -, holds⟩ := law
    exact .inl ⟨_, m, set, holds⟩
  case tier0Short =>
    obtain ⟨-, m, set, -, holds⟩ := law
    exact .inl ⟨_, m, set, holds⟩
  case tier1 =>
    obtain ⟨-, m, set, holds⟩ := law
    exact .inl ⟨_, m, set, holds⟩
  case escape =>
    obtain ⟨-, set, -, slots⟩ := law
    exact .inr (.inl ⟨set, slots⟩)
  case dark =>
    obtain ⟨-, set, slots⟩ := law
    exact .inr (.inr ⟨set, slots⟩)

/-- The counts of a member set are the quotas of its members and 0 for every other place (R104). -/
theorem slotCounts_members {x : Group} (law : x.SpreadLaw) {m : List MemberIdx} (set : x.set = .members m) :
    slotCounts x.spread = ((List.finRange 8).map fun i => BitVec.ofNat 8 (if i ∈ m then quota x.record.weight m i else 0)) ++
      [0#8] := by
  obtain ⟨t, m', set', holds⟩ : ∃ t m', x.set = .members m' ∧ x.HoldsQuotas t m' :=
    law.slots.resolve_right fun h => by simp [set] at h
  obtain rfl : m = m' := ActiveSet.members.inj (set.symm.trans set')
  have member : ∀ i : MemberIdx, slotCount x.spread (.member i) = if i ∈ m then quota x.record.weight m i else 0 := fun i => by
    by_cases mem : i ∈ m
    · rw [if_pos mem, holds.quotas i mem]
    · rw [if_neg mem]
      refine slotCount_eq_zero fun k e => ?_
      obtain ⟨j, memJ, slot⟩ := holds.filled k
      exact mem (Occupant.member.inj (slot.symm.trans e) ▸ memJ)
  have escape : slotCount x.spread .escape = 0 := slotCount_eq_zero fun k e => by
    obtain ⟨j, -, slot⟩ := holds.filled k
    exact nomatch slot.symm.trans e
  simp only [slotCounts, member, escape]

/-- In ESCAPE the escape holds all 64 slots (R104). -/
theorem slotCounts_escape {x : Group} (law : x.SpreadLaw) (set : x.set = .escape) :
    slotCounts x.spread = [0#8, 0#8, 0#8, 0#8, 0#8, 0#8, 0#8, 0#8, 64#8] := by
  have slots : ∀ k : Slot, x.spread[k] = .escape := by
    rcases law.slots with ⟨t, m, set', -⟩ | ⟨-, slots⟩ | ⟨set', -⟩
    · exact nomatch set.symm.trans set'
    · exact slots
    · exact nomatch set.symm.trans set'
  have member : ∀ i : MemberIdx, slotCount x.spread (.member i) = 0 := fun i => slotCount_eq_zero fun k e =>
    nomatch (slots k).symm.trans e
  simp only [slotCounts, member, slotCount_eq_all slots]
  rfl

/-- In DARK no slot is counted (R104). -/
theorem slotCounts_empty {x : Group} (law : x.SpreadLaw) (set : x.set = .empty) :
    slotCounts x.spread = [0#8, 0#8, 0#8, 0#8, 0#8, 0#8, 0#8, 0#8, 0#8] := by
  have slots : ∀ k : Slot, x.spread[k] = .empty := by
    rcases law.slots with ⟨t, m, set', -⟩ | ⟨set', -⟩ | ⟨-, slots⟩
    · exact nomatch set.symm.trans set'
    · exact nomatch set.symm.trans set'
    · exact slots
  have member : ∀ i : MemberIdx, slotCount x.spread (.member i) = 0 := fun i => slotCount_eq_zero fun k e =>
    nomatch (slots k).symm.trans e
  have escape : slotCount x.spread .escape = 0 := slotCount_eq_zero fun k e => nomatch (slots k).symm.trans e
  simp only [slotCounts, member, escape]
  rfl

/-! ### READ_VIEW and READ_CARDS -/

/-- The first byte of READ_VIEW (R152). -/
theorem view_byte (spare : BitVec 1) (last : Bool) (deadline : BitVec 2) (mark : Bool) (presence : BitVec 3) :
    spare ++ bit last ++ deadline ++ bit mark ++ presence =
      BitVec.ofNat 8 (128 * spare.toNat + 64 * last.toNat + 16 * deadline.toNat + 8 * mark.toNat + presence.toNat) := byte_eq (by
  simp only [fields_toNat, bit_toNat]
  have := spare.isLt
  have := last.toNat_lt
  have := deadline.isLt
  have := mark.toNat_lt
  have := presence.isLt
  omega)

/-- The status field as a number: two bits for each port (section 12.1). -/
theorem statusWord_toNat (st : Statuses) :
    (statusWord st).toNat = ((List.finRange 8).map fun p => 4 ^ p.val * st[p].code.toNat).sum := by
  have ports : List.finRange 8 = [0, 1, 2, 3, 4, 5, 6, 7] := rfl
  simp only [statusWord, fields_toNat, ports, List.map_cons, List.map_nil, List.sum_cons, List.sum_nil]
  change _ = 4 ^ 0 * st[0].code.toNat + (4 ^ 1 * st[1].code.toNat + (4 ^ 2 * st[2].code.toNat + (4 ^ 3 * st[3].code.toNat +
    (4 ^ 4 * st[4].code.toNat + (4 ^ 5 * st[5].code.toNat + (4 ^ 6 * st[6].code.toNat + (4 ^ 7 * st[7].code.toNat + 0)))))))
  omega

/-- The first byte of an entry (R152). -/
theorem entry_byte (mark : Bool) (spare : BitVec 1) (reason : BitVec 4) (state : BitVec 2) :
    bit mark ++ spare ++ reason ++ state =
      BitVec.ofNat 8 (128 * mark.toNat + 64 * spare.toNat + 4 * reason.toNat + state.toNat) := byte_eq (by
  simp only [fields_toNat, bit_toNat]
  have := mark.toNat_lt
  have := spare.isLt
  have := reason.isLt
  have := state.isLt
  omega)

section Entry

variable {e : Entry} (now : Nat) (free0 free1 : Byte) (spare : BitVec 1)

theorem Entry.bytes_admitted (state : e.state = .admitted) : e.bytes now free0 free1 spare =
    [BitVec.ofNat 8 (128 * e.firstMark.toNat + 64 * spare.toNat), free0, free1] := by
  rw [Entry.bytes, state, entry_byte]
  rfl

theorem Entry.bytes_settling {time : Nat} (state : e.state = .settling time) : e.bytes now free0 free1 spare =
    BitVec.ofNat 8 (128 * e.firstMark.toNat + 64 * spare.toNat + 1) ::
      [BitVec.ofNat 8 ((time - now + 999) / 1000 / 256), BitVec.ofNat 8 ((time - now + 999) / 1000)] := by
  rw [Entry.bytes, state, entry_byte]
  exact congrArg _ (bytesOf_ofNat _)

theorem Entry.bytes_dark {r : DarkReason} {reason : Nat} (state : e.state = .dark r) (code : r.code.toNat = reason) :
    e.bytes now free0 free1 spare =
      [BitVec.ofNat 8 (128 * e.firstMark.toNat + 64 * spare.toNat + 4 * reason + 2), free0, free1] := by
  subst code
  rw [Entry.bytes, state, entry_byte]
  rfl

theorem Entry.bytes_length (e : Entry) : (e.bytes now free0 free1 spare).length = 3 := by
  unfold Entry.bytes
  cases e.state <;> rfl

end Entry

/-- The three bytes of each of a card's eight entries. -/
def State.entryBytes (s : State) (c : CardId) : List Byte :=
  (List.finRange 8).flatMap fun p =>
    s.view.entries[uplinkOf c p].bytes s.clock.now (s.free (2 * p.val)) (s.free (2 * p.val + 1)) (s.freeBit (17 + p.val))

/-- READ_VIEW by the numbers of its codes (R152). -/
theorem State.viewBytes_eq (s : State) (c : CardId) {card : CardRecord} {last : Option Statuses} {mark : Bool}
    {deadline presence left status : Nat} {entries : List Byte} (hcard : s.view.cards[c] = card)
    (hlast : s.lastStatus c = last) (hmark : s.cardMark c = mark)
    (hdeadline : card.presence.deadlineCode.toNat = deadline) (hpresence : card.presence.code.toNat = presence)
    (hleft : card.presence.deadlineLeft s.clock.now = BitVec.ofNat 8 left)
    (hstatus : ((last.map statusWord).getD 0#16).toNat = status) (hentries : s.entryBytes c = entries) :
    s.viewBytes c = [BitVec.ofNat 8 (128 * (s.freeBit 16).toNat + 64 * last.isSome.toNat + 16 * deadline + 8 * mark.toNat +
        presence), BitVec.ofNat 8 left] ++ [BitVec.ofNat 8 (status / 256), BitVec.ofNat 8 status] ++ entries := by
  subst hcard hlast hmark hdeadline hpresence hstatus hentries
  rw [State.viewBytes, view_byte, hleft, bytesOf_eq]
  rfl

theorem State.viewBytes_length (s : State) (c : CardId) : (s.viewBytes c).length = 28 := by
  rw [State.viewBytes, List.length_append, length_flatMap_finRange _ fun p => Entry.bytes_length _ _ _ _ _]
  rfl

/-- Two presence codes in one byte (R152). -/
theorem nibbles_byte (s : State) (c d : CardId) : s.presenceNibble c ++ s.presenceNibble d =
    BitVec.ofNat 8 (16 * s.view.cards[c].presence.code.toNat + s.view.cards[d].presence.code.toNat) := byte_eq (by
  simp only [State.presenceNibble, fields_toNat, BitVec.toNat_ofNat]
  have := s.view.cards[c].presence.code.isLt
  have := s.view.cards[d].presence.code.isLt
  omega)

/-- A read is taken from the end of loading on (R142, R143). -/
theorem State.takeCommand_running (effect : State → State) (s : State) (takes : s.TakesCommand) (running : s.isLoading = false) :
    s.takeCommand (!s.isLoading) effect = effect s := by
  rw [running]
  exact State.takeCommand_taken effect s takes

/-- Settles O46: field by field, each byte is the number its codes make, and the port takes the command. -/
theorem readsChangeNothing : Obligations.ReadsChangeNothing := by
  unfold Obligations.ReadsChangeNothing
  intro presence occupant two
  have presenceCode : ∀ p : Presence, p.code.toNat = presence p := fun p => by cases p <;> rfl
  have occupantCode : ∀ o : Occupant, o.code = occupant o := fun o => by cases o <;> rfl
  refine ⟨fun s => ⟨_, (s.freeBit 0).isLt, ?_⟩, fun s g unused => ⟨State.groupBytes_unused unused, State.spreadBytes_unused unused⟩,
    fun s x law mem => ⟨⟨(s.freeBit 9).toNat, ((s.free 8).extractLsb' 0 7).toNat, fun i => s.free i.val, BitVec.isLt _,
      BitVec.isLt _, ?_⟩, ?_, ?_⟩, fun s c => ⟨(s.freeBit 16).toNat, fun p => (s.freeBit (17 + p.val)).toNat,
      fun p => s.free (2 * p.val), fun p => s.free (2 * p.val + 1), BitVec.isLt _, fun p => BitVec.isLt _, ?_⟩,
    fun s => ?_, fun b0 b1 s takes => ⟨⟨?_, rfl⟩, fun running => ⟨⟨?_, s.groupBytes_length _⟩, ⟨?_, ?_⟩,
      ⟨?_, s.viewBytes_length _⟩, ?_, ?_⟩⟩⟩
  · exact s.statusBytes_eq (by cases s.bus.ctl <;> rfl) (by cases s.engine.job <;> rfl) (by cases s.start.phase <;> rfl)
  · rw [State.groupBytes_used (law.find mem), List.take_left' (s.headBytes_length x)]
    refine s.headBytes_eq x (by cases x.mode <;> rfl) (by rcases x.tier with (_ | _) | _ | _ <;> rfl) ?_ ?_ ?_ fun i => ?_
    · cases x.set with
      | members m => exact ActiveSet.byte_members m
      | escape => rfl
      | empty => rfl
    · cases x.set <;> rfl
    · cases x.record.escape with
      | some e => exact escapeByte_some _ e
      | none => exact escapeByte_none _
    · cases seat : x.record.seats[i] with
      | some m =>
        have weight := ((law.record x mem).weights _ ((x.record.mem_members i m).2 seat)).2
        exact placeBytes_some _ i m weight (by cases m.tier <;> rfl)
      | none => exact placeBytes_none _ i
  · rw [State.groupBytes_used (law.find mem), List.drop_left' (s.headBytes_length x)]
    cases set : x.set with
    | members m => exact slotCounts_members (law.spread x mem) set
    | escape => exact slotCounts_escape (law.spread x mem) set
    | empty => exact slotCounts_empty (law.spread x mem) set
  · exact (State.spreadBytes_used (law.find mem)).trans (List.map_congr_left fun k _ => occupantCode x.spread[k])
  · intro card own last mark
    refine s.viewBytes_eq c (card := card) (last := last) (mark := mark) rfl rfl rfl ?_ (presenceCode _) ?_ ?_ ?_
    · rcases card.presence with _ | _ | (_ | _) | (_ | _) | _ <;> rfl
    · rcases card.presence with _ | _ | (_ | _) | (_ | _) | _ <;> rfl
    · clear_value last
      cases last with
      | none => rfl
      | some st =>
        refine (statusWord_toNat st).trans (congrArg List.sum (List.map_congr_left fun p _ => congrArg (4 ^ p.val * ·) ?_))
        cases st[p] <;> rfl
    · refine List.flatMap_congr fun p _ => ?_
      beta_reduce
      extract_lets e first
      cases state : e.state with
      | admitted => exact Entry.bytes_admitted _ _ _ _ state
      | settling time => exact Entry.bytes_settling _ _ _ _ state
      | dark r => exact Entry.bytes_dark _ _ _ _ state (by cases r <;> rfl)
  · refine List.map_congr_left fun k _ => ?_
    rw [nibbles_byte, presenceCode, presenceCode]
    rfl
  · exact congrArg _ (State.takeCommand_taken _ s takes)
  · exact congrArg _ (State.takeCommand_running _ s takes running)
  · exact congrArg _ (State.takeCommand_running _ s takes running)
  · simp [State.spreadBytes]
  · exact congrArg _ (State.takeCommand_running _ s takes running)
  · exact congrArg _ (State.takeCommand_running _ s takes running)
  · simp [State.cardsBytes]

end Sys2Proof.Machine
end

section
/-! What the worklist law and the episode law read of a state, and the notices, the one thing that an event of the view tells the Repair
Engine (R107 to R111, R122 to R124). -/

namespace Sys2Proof.Machine

/-- What the worklist law and the episode law read of a state. -/
structure Ledger where
  urgent : List WorkEntry
  calm : List WorkEntry
  build : List GroupNo
  pool : List PendingRecord
  sweep : Option SweepEntry
  job : Option Job
  episode : Option Episode
  opened : Bool

def State.ledger (s : State) : Ledger :=
  ⟨s.engine.urgent, s.engine.calm, s.engine.build, s.store.pool, s.engine.sweep, s.engine.job, s.engine.episode,
    s.journal.episodeOpen⟩

/-- The queues and the pool, which are all that the worklist law reads. -/
def State.queues (s : State) : List WorkEntry × List WorkEntry × List GroupNo × List PendingRecord :=
  (s.engine.urgent, s.engine.calm, s.engine.build, s.store.pool)

variable {s t r : State}

theorem State.queues_of_ledger (h : t.ledger = s.ledger) : t.queues = s.queues :=
  congrArg (fun l : Ledger => (l.urgent, l.calm, l.build, l.pool)) h

/-- The ledger fixes whether the engine rests, and its episode with the Journal's flag. -/
theorem State.ledger_rest (h : t.ledger = s.ledger) : t.engine.atRest = s.engine.atRest ∧ t.engine.episode = s.engine.episode ∧
    t.journal.episodeOpen = s.journal.episodeOpen := by
  simp only [State.ledger, Ledger.mk.injEq] at h
  obtain ⟨urgent, calm, build, -, sweep, job, episode, flag⟩ := h
  refine ⟨?_, episode, flag⟩
  simp only [Engine.atRest, Engine.worklistLength, urgent, calm, build, sweep, job]

/-! ### Notices -/

/-- From `s` to `t` the engine is told of notices alone, and of the SWEEP of a start, one after another (R108, R109, R111). -/
inductive State.Notified : State → State → Prop
  | same {s t : State} (h : t.ledger = s.ledger) : Notified s t
  | left (u : Uplink) (s : State) : Notified s (s.noticeLeft u)
  | entered (u : Uplink) (s : State) : Notified s (s.noticeEntered u)
  | sweep (s : State) : Notified s s.placeSweep
  | trans {s t r : State} (a : Notified s t) (b : Notified t r) : Notified s r

namespace State

variable (s)

/-! ### Operations that leave the ledger -/

@[simp] theorem withPins_ledger (x : Pins) : (s.withPins x).ledger = s.ledger := rfl
@[simp] theorem withClock_ledger (x : Clock) : (s.withClock x).ledger = s.ledger := rfl
@[simp] theorem withStart_ledger (x : Start) : (s.withStart x).ledger = s.ledger := rfl
@[simp] theorem withView_ledger (x : View) : (s.withView x).ledger = s.ledger := rfl
@[simp] theorem withBus_ledger (x : Bus) : (s.withBus x).ledger = s.ledger := rfl
@[simp] theorem withSender_ledger (x : Sender) : (s.withSender x).ledger = s.ledger := rfl
@[simp] theorem withPending_ledger (x : List Instr) : (s.withPending x).ledger = s.ledger := rfl

@[simp] theorem elapse_ledger (d : Nat) : (s.elapse d).ledger = s.ledger := rfl
@[simp] theorem advanceTo_ledger (t : Nat) : (s.advanceTo t).ledger = s.ledger := rfl
@[simp] theorem setMonitor_ledger (p : Port) (m : Monitor) : (s.setMonitor p m).ledger = s.ledger := rfl
@[simp] theorem setCard_ledger (c : CardId) (r : CardRecord) : (s.setCard c r).ledger = s.ledger := rfl
@[simp] theorem setFramer_ledger (f : Framer) : (s.setFramer f).ledger = s.ledger := rfl
@[simp] theorem raiseDue_ledger (f : FrameClass) : (s.raiseDue f).ledger = s.ledger := rfl
@[simp] theorem startFrame_ledger : s.startFrame.ledger = s.ledger := rfl
@[simp] theorem completeFrame_ledger (cls : FrameClass) : (s.completeFrame cls).ledger = s.ledger := rfl
@[simp] theorem loseArbitration_ledger (cls : FrameClass) (taken : List Bool) : (s.loseArbitration cls taken).ledger = s.ledger := rfl
@[simp] theorem isolationEnd_ledger : s.isolationEnd.ledger = s.ledger := rfl
@[simp] theorem respond_ledger (c : StatusCode) (data : List Byte) : (s.respond c data).ledger = s.ledger := rfl

/-- A change of the Journal that leaves its flag. -/
theorem withJournal_ledger (x : Journal) (flag : x.episodeOpen = s.journal.episodeOpen) : (s.withJournal x).ledger = s.ledger := by
  simp only [ledger, withJournal_journal, flag, withJournal_engine, withJournal_store]

@[simp] theorem append_ledger (b : JournalBody) : (s.append b).ledger = s.ledger :=
  withJournal_ledger s _ (Journal.append_flag _ _)

@[simp] theorem appendIf_ledger (b : Option JournalBody) : (s.appendIf b).ledger = s.ledger := by
  cases b with
  | none => rfl
  | some x => exact append_ledger s x

@[simp] theorem framingError_ledger (aborted : Bool) : (s.framingError aborted).ledger = s.ledger := by cases aborted <;> rfl
@[simp] theorem crcError_ledger (aborted : Bool) : (s.crcError aborted).ledger = s.ledger := by cases aborted <;> rfl

@[simp] theorem countAbort_ledger (cls : FrameClass) : (s.countAbort cls).ledger = s.ledger := by
  simp only [countAbort]
  split
  · exact append_ledger _ _
  · rfl

@[simp] theorem startEdge_ledger (idle : Nat) : (s.startEdge idle).ledger = s.ledger := by
  rcases s.startEdge_cases idle with ⟨-, e⟩ | ⟨-, -, e⟩ | ⟨-, -, e⟩ <;> simp [e]

@[simp] theorem discardReception_ledger (receiving : Bool) : (s.discardReception receiving).ledger = s.ledger := by
  unfold discardReception
  split
  · simp
  · split <;> simp
  · rfl
  · rfl

@[simp] theorem beginLoad_ledger (straps : CardId) : (s.beginLoad straps).ledger = s.ledger := by
  unfold beginLoad
  split <;> rfl

theorem startJournal_flag (noted : Option JournalBody) : (s.startJournal noted).episodeOpen = s.journal.episodeOpen := by
  unfold startJournal
  cases noted <;> cases s.start.kind <;> simp [Journal.append_flag]

theorem finishLoading_ledger (c : Settings) (noted : Option JournalBody) : (s.finishLoading c noted).ledger = s.ledger := by
  rw [finishLoading_eq]
  simp only [ledger, startJournal_flag]

end State

/-! ### Events of the view -/

namespace State.Notified

/-- What comes before the notices, and what comes after them, leaves the ledger. -/
theorem before (h : t.ledger = s.ledger) (n : t.Notified r) : s.Notified r := .trans (.same h) n

theorem after (n : s.Notified t) (h : r.ledger = t.ledger) : s.Notified r := .trans n (.same h)

theorem append (b : JournalBody) (n : s.Notified t) : s.Notified (t.append b) := n.after (append_ledger t b)

theorem handLeft (u : Uplink) (d : EntryDetail) (s : State) : s.Notified (s.handLeft u d) := by
  have drop : (s.orderMade.putUplinkDrop u).ledger = s.ledger := rfl
  unfold State.handLeft
  dsimp only
  split
  · exact append _ (before drop (.left u _))
  · exact before ((append_ledger _ _).trans drop) (.left u _)

theorem handEntered (u : Uplink) (s : State) : s.Notified (s.handEntered u) := by
  have order : s.orderMade.ledger = s.ledger := rfl
  unfold State.handEntered
  dsimp only
  split
  · exact append _ (before order (.entered u _))
  · exact before ((append_ledger _ _).trans order) (.entered u _)

theorem handChange (u : Uplink) (old new : EntryState) (s : State) : s.Notified (s.handChange u old new) := by
  unfold State.handChange
  split
  · exact .same rfl
  · split
    · exact handLeft u _ s
    · split
      · exact handEntered u s
      · exact .same (append_ledger _ _)

theorem moveEntry (u : Uplink) (e : Entry) (s : State) : s.Notified (s.moveEntry u e) :=
  before (withView_ledger s _) (handChange u _ _ _)

theorem refindAll (us : List Uplink) (s : State) : s.Notified (s.refindAll us) := by
  induction us generalizing s with
  | nil => exact .same rfl
  | cons u us ih => exact (moveEntry u _ s).trans (ih _)

theorem handStatus (p : Port) (old : PortStatus) (s : State) : s.Notified (s.handStatus p old) := by
  unfold State.handStatus
  split
  · exact .same rfl
  · refine before ?_ (moveEntry _ _ _)
    split <;> rfl

theorem decayPort (p : Port) (s : State) : s.Notified (s.decayPort p) := by
  rw [State.decayPort_eq]
  exact before (setMonitor_ledger s p _) (handStatus _ _ _)

theorem foldl_decayPort (ps : List Port) (s : State) : s.Notified (ps.foldl State.decayPort s) := by
  induction ps generalizing s with
  | nil => exact .same rfl
  | cons p ps ih => exact (decayPort p s).trans (ih _)

theorem loseCard (c : CardId) (s : State) : s.Notified (s.loseCard c) :=
  before ((append_ledger _ _).trans (setCard_ledger s c _)) (refindAll _ _)

theorem applyFrame (c : CardId) (cls : FrameClass) (st : Statuses) (s : State) : s.Notified (s.applyFrame c cls st) :=
  before ((appendIf_ledger _ _).trans (setCard_ledger s c _)) (refindAll _ _)

theorem isolationStart (s : State) : s.Notified s.isolationStart := by
  rw [State.isolationStart_eq]
  split
  · exact before (t := s.isolationMarked) rfl (refindAll _ _)
  · exact .same rfl

theorem setDraining (b : Bool) (s : State) : s.Notified (s.setDraining b) :=
  before (withView_ledger s _) (refindAll _ _)

/-! ### The notice bus -/

theorem dispose (card : CardId) (cls : FrameClass) (st : Statuses) (s : State) : s.Notified (s.dispose card cls st) := by
  unfold State.dispose
  dsimp only
  split
  · refine .same ?_
    split
    · exact append_ledger _ _
    · rfl
  · exact before (withBus_ledger s _) (applyFrame card cls st _)

theorem judge (aborted : Bool) (bits : BitVec 48) (s : State) : s.Notified (s.judge aborted bits) := by
  unfold State.judge
  split
  · exact .same (framingError_ledger _ _)
  · split
    · exact .same (crcError_ledger _ _)
    · exact dispose _ _ _ _

theorem hear (aborted : Bool) (taken : List Bool) (s : State) : s.Notified (s.hear aborted taken) := by
  rcases s.hear_cases aborted taken with ⟨-, e⟩ | ⟨-, -, e⟩ | ⟨-, -, e⟩ <;> rw [e]
  · exact .same (framingError_ledger _ _)
  · exact .same rfl
  · exact before (setFramer_ledger s _) (judge _ _ _)

theorem abortFrame (cls : FrameClass) (taken : List Bool) (s : State) : s.Notified (s.abortFrame cls taken) :=
  before (countAbort_ledger s cls) (hear _ _ _)

theorem readBack (cls : FrameClass) (st : Statuses) (sent : Nat) (b : Bool) (s : State) : s.Notified (s.readBack cls st sent b) := by
  cases own : (lineBits cls s.start.cardId st)[sent]? with
  | none => exact .same (by simp [State.readBack, own])
  | some x =>
    rcases s.readBack_cases cls st sent x b own with ⟨-, -, e⟩ | ⟨-, -, e⟩ | ⟨-, -, e⟩ | ⟨-, -, e⟩ <;> rw [e]
    · exact .same rfl
    · exact .same rfl
    · exact .same rfl
    · exact abortFrame _ _ _

theorem takeBit (b : Bool) (s : State) : s.Notified (s.takeBit b) := by
  unfold State.takeBit
  split
  · exact .same rfl
  · exact .same (by split <;> simp)
  · exact hear _ _ _
  · exact readBack _ _ _ _ _

theorem takeBits (bits : List Bool) (s : State) : s.Notified (s.takeBits bits) := by
  induction bits generalizing s with
  | nil => exact .same rfl
  | cons b bits ih => exact (takeBit b s).trans (ih _)

theorem enterFault (receiving : Bool) (s : State) : s.Notified (s.enterFault receiving) :=
  before ((append_ledger _ _).trans ((withBus_ledger _ _).trans (discardReception_ledger s receiving))) (isolationStart _)

/-! ### The entry to SERVE and the table port -/

theorem enterServe (s : State) : s.Notified s.enterServe := by
  have serving : s.startServing.ledger = s.ledger := rfl
  have order : s.startServing.orderMade.ledger = s.ledger := rfl
  unfold State.enterServe
  dsimp only
  split
  · exact .same ((append_ledger _ _).trans serving)
  · split
    · exact append _ (before order (.sweep _))
    · exact before ((append_ledger _ _).trans order) (.sweep _)

/-- A command that comes in on the port tells the engine what its effect does, or nothing. -/
theorem takeCommand (inPhase : Bool) (effect : State → State) (h : s.Notified (effect s)) :
    s.Notified (s.takeCommand inPhase effect) := by
  rcases s.takeCommand_cases inPhase effect with ⟨-, -, e⟩ | ⟨-, -, e⟩ | ⟨-, e⟩ | ⟨-, e⟩ <;> rw [e]
  · exact h
  all_goals exact .same rfl

end State.Notified

end Sys2Proof.Machine
end

section
/-! The commands at which the Repair Engine is told of notices at most, and the resets. -/

namespace Sys2Proof

/-- The commands that act on the Repair Engine's work or its episode other than by a notice or a reset. -/
def Instr.onWork (c : Instr) : Bool := c.onTables || c matches .settleDeadline

namespace Machine

open State (Notified)

variable {s t : State}

theorem execLightFall_ledger (p : Port) (h : execLightFall p s = .next t) : t.ledger = s.ledger := by
  obtain rfl := Host.Outcome.next.inj h
  dsimp only
  split
  · split <;> rfl
  · rfl

theorem execLightRise_ledger (p : Port) (h : execLightRise p s = .next t) : t.ledger = s.ledger := by
  obtain rfl := Host.Outcome.next.inj h
  dsimp only
  split
  · rfl
  · split <;> rfl

theorem execLossTimerExpiry_notified (p : Port) (h : execLossTimerExpiry p s = .next t) : s.Notified t := by
  obtain rfl := Host.Outcome.next.inj h
  split
  · exact .before (t := (s.advanceTo _).setMonitor p _) rfl (.handStatus _ _ _)
  all_goals exact .same rfl

theorem execReturnTimerExpiry_notified (p : Port) (h : execReturnTimerExpiry p s = .next t) : s.Notified t := by
  obtain rfl := Host.Outcome.next.inj h
  split
  · exact .before (t := (s.advanceTo _).setMonitor p _) rfl (.handStatus _ _ _)
  all_goals exact .same rfl

theorem execDecayTick_notified (h : execDecayTick s = .next t) : s.Notified t := by
  obtain rfl := Host.Outcome.next.inj h
  split
  · exact .same rfl
  · exact .before (State.withClock_ledger _ _) (.foldl_decayPort _ _)

theorem execAdmissionDeadline_notified (u : Uplink) (h : execAdmissionDeadline u s = .next t) : s.Notified t := by
  obtain rfl := Host.Outcome.next.inj h
  split
  · exact .before (State.advanceTo_ledger s _) (.moveEntry _ _ _)
  all_goals exact .same rfl

theorem execPresenceDeadline_notified (c : CardId) (h : execPresenceDeadline c s = .next t) : s.Notified t := by
  obtain rfl := Host.Outcome.next.inj h
  split
  · exact .before (State.advanceTo_ledger s _) (.loseCard c _)
  · exact .same rfl

theorem execFrameReceived_notified (gap : Nat) (bits : List Bool) (h : execFrameReceived gap bits s = .next t) : s.Notified t := by
  obtain rfl := Host.Outcome.next.inj h
  split
  · split
    · exact .before (State.startEdge_ledger s _) (.takeBits bits _)
    · exact .takeBits bits s
    · exact .takeBits bits s
    · exact .same rfl
  · exact .same rfl

theorem execFrameStart_ledger (gap : Nat) (edge : Bool) (h : execFrameStart gap edge s = .next t) : t.ledger = s.ledger := by
  obtain rfl := Host.Outcome.next.inj h
  split
  · split
    · split
      · simp
      · split <;> simp
    all_goals rfl
  · rfl

theorem execArbitrationLost_ledger (h : execArbitrationLost s = .next t) : t.ledger = s.ledger := by
  obtain rfl := Host.Outcome.next.inj h
  split
  · dsimp only
    split <;> simp
  all_goals rfl

theorem execAbort_notified (h : execAbort s = .next t) : s.Notified t := by
  obtain rfl := Host.Outcome.next.inj h
  split
  · dsimp only
    split
    · exact .abortFrame _ _ s
    · split
      · exact .abortFrame _ _ s
      · exact .same rfl
  all_goals exact .same rfl

theorem execStuckLine_notified (stretch : Nat) (receiving : Bool) (h : execStuckLine stretch receiving s = .next t) :
    s.Notified t := by
  obtain rfl := Host.Outcome.next.inj h
  split
  · exact .enterFault receiving s
  · exact .same rfl

theorem execFaultRecovery_ledger (recessive : Nat) (h : execFaultRecovery recessive s = .next t) : t.ledger = s.ledger := by
  obtain rfl := Host.Outcome.next.inj h
  split
  · split <;> simp
  all_goals rfl

theorem takeCommand_next_notified {inPhase : Bool} {effect : State → State}
    (h : Host.Outcome.next (s.takeCommand inPhase effect) = (.next t : Host.Outcome State Fault Refusal))
    (e : s.Notified (effect s)) : s.Notified t :=
  Host.Outcome.next.inj h ▸ Notified.takeCommand inPhase effect e

theorem execDrain_notified (h : execDrain s = .next t) : s.Notified t := by
  refine takeCommand_next_notified h ?_
  split
  · exact .same rfl
  · split
    · exact .same rfl
    · exact (Notified.setDraining true s).after (by simp)

theorem execUndrain_notified (h : execUndrain s = .next t) : s.Notified t := by
  refine takeCommand_next_notified h ?_
  dsimp only
  split
  · exact (Notified.setDraining false s).after (by simp)
  · exact .same rfl

/-- But for the engine's own commands, COMMIT, RELEASE and the resets, a command tells the engine of notices or nothing. -/
theorem exec_notified (c : Instr) (other : c.onWork = false) (noReset : c.canReset = false) (h : exec c s = .next t) :
    s.Notified t := by
  cases c with
  | lightFall p => exact .same (execLightFall_ledger p h)
  | lightRise p => exact .same (execLightRise_ledger p h)
  | lossTimerExpiry p => exact execLossTimerExpiry_notified p h
  | returnTimerExpiry p => exact execReturnTimerExpiry_notified p h
  | decayTick => exact execDecayTick_notified h
  | admissionDeadline u => exact execAdmissionDeadline_notified u h
  | presenceDeadline k => exact execPresenceDeadline_notified k h
  | frameReceived gap bits => exact execFrameReceived_notified gap bits h
  | frameStart gap edge => exact .same (execFrameStart_ledger gap edge h)
  | arbitrationLost => exact .same (execArbitrationLost_ledger h)
  | abort => exact execAbort_notified h
  | frameComplete | muteTimerExpiry | beaconTimerExpiry | lookupRequest | answer | dropUplink | dropGroup | dropAll | loadTimeout =>
    obtain rfl := Host.Outcome.next.inj h
    exact .same (by split <;> rfl)
  | stuckLine stretch receiving => exact execStuckLine_notified stretch receiving h
  | faultRecovery recessive => exact .same (execFaultRecovery_ledger recessive h)
  | drain => exact execDrain_notified h
  | undrain => exact execUndrain_notified h
  | status | stageClear | stageMember | stageOptions | readGroup | readSpread | readView | readCards | readJournal | readCounters
  | warmReset => exact takeCommand_next_notified h (.same rfl)
  | unknownCommand byte =>
    obtain rfl := Host.Outcome.next.inj h
    split
    · exact .same rfl
    · exact .takeCommand _ _ (.same rfl)
  | resetNReleased straps => obtain rfl := Host.Outcome.next.inj h; exact .same (by split <;> simp)
  | warmNReleased straps => obtain rfl := Host.Outcome.next.inj h; exact .same (by split <;> simp)
  | endOfLoading rom => obtain rfl := Host.Outcome.next.inj h; exact .same (by split <;> simp [State.finishLoading_ledger])
  | listenDeadline =>
    obtain rfl := Host.Outcome.next.inj h
    split
    · exact .before (State.advanceTo_ledger s _) (.enterServe _)
    all_goals exact .same rfl
  | powerUp | resetNAsserted | warmNAsserted | chipSelectRelease => cases noReset
  | settleDeadline | arbiterTake | reconcile | installation | commit | release => cases other

/-! ### Resets -/

/-- Either kind of reset leaves no work, no record in the pool and no episode (R105, R106, R125, R126, R166, R167). -/
theorem exec_canReset_ledger (c : Instr) (reset : c.canReset = true) (h : exec c s = .next t) :
    t.ledger = s.ledger ∨ t.ledger = State.reset.ledger := by
  cases c with
  | powerUp straps =>
    obtain rfl := Host.Outcome.next.inj h
    exact .inr (State.beginLoad_ledger _ straps)
  | resetNAsserted =>
    obtain rfl := Host.Outcome.next.inj h
    split
    · exact .inl rfl
    · exact .inr rfl
  | warmNAsserted =>
    obtain rfl := Host.Outcome.next.inj h
    dsimp only
    split
    · exact .inl rfl
    · split
      · exact .inl rfl
      · exact .inr rfl
  | chipSelectRelease r =>
    obtain rfl := Host.Outcome.next.inj h
    have again : ∀ u : State, (if r.again = true then u.selectPort else u).ledger = u.ledger := fun u => by split <;> rfl
    dsimp only
    rw [again]
    split
    · exact .inr (State.beginLoad_ledger _ _)
    · exact .inl rfl
  | _ => cases reset

end Machine

end Sys2Proof
end

section
/-! The worklist law (R107 to R110, R117, R119, R148), over every step, and the bound it puts on the worklist. -/

namespace Sys2Proof.Machine

variable {s t : State}

/-! ### One entry for an uplink -/

/-- No two entries of the two queues are for one uplink (R107). -/
def OncePerUplink (urgent calm : List WorkEntry) : Prop := ((urgent ++ calm).map fun w => w.uplink).Nodup

theorem OncePerUplink.symm {p q : List WorkEntry} (h : OncePerUplink p q) : OncePerUplink q p := by
  unfold OncePerUplink at *
  rw [List.map_append] at *
  exact List.nodup_append_comm.1 h

theorem OncePerUplink.of_sublist {p q p' q' : List WorkEntry} (h : OncePerUplink p q) (hp : p'.Sublist p) (hq : q'.Sublist q) :
    OncePerUplink p' q' :=
  List.Nodup.sublist ((hp.append hq).map _) h

theorem waitingIn_iff (q : List WorkEntry) (u : Uplink) : waitingIn q u = true ↔ u ∈ q.map fun w => w.uplink := by
  simp [waitingIn]

/-- An entry put at the head of a queue, where none waits for its uplink (R117). -/
theorem OncePerUplink.insert {p q : List WorkEntry} {w : WorkEntry} (h : OncePerUplink p q) (hp : waitingIn p w.uplink = false)
    (hq : waitingIn q w.uplink = false) : OncePerUplink p (w :: q) := by
  unfold OncePerUplink at *
  have fresh : w.uplink ∉ (p ++ q).map fun x => x.uplink := by
    rw [List.map_append, List.mem_append, ← waitingIn_iff, ← waitingIn_iff, hp, hq]
    simp
  rw [List.map_append, List.map_cons, List.nodup_middle, ← List.map_append]
  exact List.nodup_cons.2 ⟨fresh, h⟩

theorem withoutUplink_waits (q : List WorkEntry) (u : Uplink) : waitingIn (withoutUplink q u) u = false := by
  rw [Bool.eq_false_iff, ne_eq, waitingIn_iff]
  simp [withoutUplink]

/-- A fresh entry at the tail of one queue, in place of the other queue's entry for its uplink (R108, R109). -/
theorem OncePerUplink.replace {p q : List WorkEntry} {w : WorkEntry} (h : OncePerUplink p q) (hp : waitingIn p w.uplink = false) :
    OncePerUplink (p ++ [w]) (withoutUplink q w.uplink) := by
  have kept := (h.of_sublist (List.Sublist.refl p) List.filter_sublist).insert hp (withoutUplink_waits q w.uplink)
  unfold OncePerUplink at *
  rwa [List.append_assoc]

/-! ### The pool -/

theorem Store.pendingFlag_iff (st : Store) (g : GroupNo) : st.pendingFlag g = true ↔ g ∈ st.pool.map fun x => x.group := by
  simp [Store.pendingFlag, Store.pendingFor]

/-! ### The law -/

/-- The law reads the queues and the pool alone. -/
theorem State.WorkLaw.of_queues (law : s.WorkLaw) (h : t.queues = s.queues) : t.WorkLaw := by
  simp only [State.queues, Prod.mk.injEq] at h
  obtain ⟨urgent, calm, build, pool⟩ := h
  have flag : ∀ g, t.store.pendingFlag g = s.store.pendingFlag g := fun g => by
    simp only [Store.pendingFlag, Store.pendingFor, pool]
  constructor
  case uplinks => rw [urgent, calm]; exact law.uplinks
  case builds => rw [build]; exact law.builds
  case pooled => rw [pool]; exact law.pooled
  case same => intro g; rw [build, flag]; exact law.same g
  case places => rw [pool]; exact law.places

/-- A change of the URGENT and CALM entries alone. -/
theorem State.WorkLaw.of_once (law : s.WorkLaw) (once : OncePerUplink t.engine.urgent t.engine.calm)
    (build : t.engine.build = s.engine.build) (store : t.store = s.store) : t.WorkLaw where
  uplinks := once
  builds := build ▸ law.builds
  pooled := store ▸ law.pooled
  same := fun g => by rw [build, store]; exact law.same g
  places := store ▸ law.places

theorem State.WorkLaw.noticeLeft (law : s.WorkLaw) (u : Uplink) : (s.noticeLeft u).WorkLaw := by
  have same := s.noticeLeft_same u
  refine law.of_once ?_ same.build same.store
  rw [State.noticeLeft_eq]
  unfold Engine.noticeLeft
  dsimp only
  split
  · exact law.uplinks
  · next fresh => exact OncePerUplink.replace (w := ⟨u, none⟩) law.uplinks (Bool.eq_false_iff.2 fresh)

theorem State.WorkLaw.noticeEntered (law : s.WorkLaw) (u : Uplink) : (s.noticeEntered u).WorkLaw := by
  have same := s.noticeEntered_same u
  refine law.of_once ?_ same.build same.store
  rw [State.noticeEntered_eq]
  unfold Engine.noticeEntered
  dsimp only
  split
  · exact law.uplinks
  · next fresh => exact (OncePerUplink.replace (w := ⟨u, none⟩) (OncePerUplink.symm law.uplinks) (Bool.eq_false_iff.2 fresh)).symm

theorem State.WorkLaw.notified (h : s.Notified t) : s.WorkLaw → t.WorkLaw := by
  induction h with
  | same h => exact fun law => law.of_queues (State.queues_of_ledger h)
  | left u s => exact fun law => law.noticeLeft u
  | entered u s => exact fun law => law.noticeEntered u
  | sweep s => exact fun law => law.of_queues (by rw [State.placeSweep_eq]; rfl)
  | trans _ _ first second => exact second ∘ first

/-! ### Walks, replacements and completions leave the queues -/

namespace State

variable (s)

theorem completeJob_queues : s.completeJob.queues = s.queues := by
  rw [completeJob_eq]
  rfl

theorem walkOn_queues (job : Job) (position : Option GroupNo) : (s.walkOn job position).queues = s.queues := by
  unfold walkOn
  split
  · exact completeJob_queues s
  · rfl

theorem reconcileGroup_queues (g : GroupNo) (snapshot : List Uplink) : (s.reconcileGroup g snapshot).queues = s.queues := by
  unfold reconcileGroup
  split
  · rfl
  · rw [handOutcome_eq]
    rfl

theorem installGroup_queues (g : GroupNo) (r : Record) (snapshot : List Uplink) :
    (s.installGroup g r snapshot).queues = s.queues := by
  rw [installGroup_eq g r snapshot s rfl]
  rfl

theorem releaseGroup_queues (g : GroupNo) : (s.releaseGroup g).queues = s.queues := by
  rw [releaseGroup_eq]
  rfl

end State

/-! ### The engine's commands -/

/-- A suspended walk returns to its class where no entry waits for its uplink (R117). -/
theorem State.WorkLaw.suspend (law : s.WorkLaw) (job : Job) (position : GroupNo) : (s.suspend job position).WorkLaw := by
  cases job with
  | calm u w =>
    rw [State.suspend_calm]
    refine law.of_once ?_ rfl rfl
    dsimp only [State.withEngine_engine]
    split
    · exact law.uplinks
    · next fresh =>
      obtain ⟨urgent, calm⟩ := Bool.or_eq_false_iff.1 (Bool.eq_false_iff.2 fresh)
      exact OncePerUplink.insert (w := ⟨u, some position⟩) law.uplinks urgent calm
  | sweep w => exact law.of_queues rfl
  | urgent => exact law
  | build => exact law

theorem State.WorkLaw.boundary (law : s.WorkLaw) (job : Job) (position : GroupNo) : (s.boundary job position).WorkLaw := by
  unfold State.boundary
  split
  · exact law.suspend job position
  · exact law.of_queues (s.walkOn_queues job _)

/-- A BUILD entry leaves its queue as its record leaves the pool (R119). -/
theorem State.WorkLaw.beginBuild (law : s.WorkLaw) (g : GroupNo) : (s.beginBuild g).WorkLaw := by
  unfold State.beginBuild
  split
  · exact law
  · constructor
    case uplinks => exact law.uplinks
    case builds => exact law.builds.filter _
    case pooled => exact law.pooled.sublist (List.filter_sublist.map _)
    case same =>
      intro h
      have before := (law.same h).trans (s.store.pendingFlag_iff h)
      rw [Store.pendingFlag_iff]
      simp only [State.withEngine_engine, State.withEngine_store, State.withStore_store, List.mem_filter, before, List.mem_map]
      constructor
      · rintro ⟨⟨x, held, rfl⟩, other⟩
        exact ⟨x, ⟨held, other⟩, rfl⟩
      · rintro ⟨x, ⟨held, other⟩, rfl⟩
        exact ⟨⟨x, held, rfl⟩, other⟩
    case places => exact (List.length_filter_le _ _).trans law.places

theorem State.WorkLaw.begin (law : s.WorkLaw) (taken : Taken) : (s.begin taken).WorkLaw := by
  have once : OncePerUplink s.engine.urgent s.engine.calm := law.uplinks
  cases taken with
  | urgent w =>
    have fewer : (s.withEngine { s.engine with urgent := s.engine.urgent.tail }).WorkLaw :=
      law.of_once (once.of_sublist (List.tail_sublist _) (List.Sublist.refl _)) rfl rfl
    exact fewer.of_queues (State.walkOn_queues _ _ _)
  | calm w =>
    have fewer : (s.withEngine { s.engine with calm := s.engine.calm.tail }).WorkLaw :=
      law.of_once (once.of_sublist (List.Sublist.refl _) (List.tail_sublist _)) rfl rfl
    exact fewer.of_queues (State.walkOn_queues _ _ _)
  | sweep e => exact law.of_queues (State.walkOn_queues _ _ _)
  | build g => exact law.beginBuild g

theorem State.WorkLaw.arbiterTake (law : s.WorkLaw) (h : execArbiterTake s = .next t) : t.WorkLaw := by
  obtain rfl := Host.Outcome.next.inj h
  split
  · exact law
  · split
    · exact law.begin _
    · exact law

theorem State.WorkLaw.reconcile (law : s.WorkLaw) (time : SnapshotTime) (h : execReconcile time s = .next t) : t.WorkLaw := by
  obtain rfl := Host.Outcome.next.inj h
  split
  · exact law
  · split
    · exact law
    · exact (law.of_queues (s.reconcileGroup_queues _ _)).boundary _ _

theorem execInstallation_queues (h : execInstallation s = .next t) : t.queues = s.queues := by
  obtain rfl := Host.Outcome.next.inj h
  split
  · exact (State.completeJob_queues _).trans (s.installGroup_queues _ _ _)
  · exact (State.completeJob_queues _).trans (s.releaseGroup_queues _)
  all_goals rfl

theorem execSettleDeadline_queues (h : execSettleDeadline s = .next t) : t.queues = s.queues := by
  obtain rfl := Host.Outcome.next.inj h
  split
  · rfl
  · split
    · rfl
    · split <;> rfl

/-! ### COMMIT and RELEASE -/

/-- The pool with the record held for `g` replaced. -/
def Store.repooled (st : Store) (g : GroupNo) (k : PendingKind) : List PendingRecord :=
  st.pool.map fun x => if x.group = g then ⟨g, k⟩ else x

theorem State.putPending_held {g : GroupNo} (held : s.store.pendingFlag g = true) (k : PendingKind) :
    s.putPending g k = { s with store := { s.store with pool := s.store.repooled g k } } :=
  if_pos held

theorem State.putPending_free {g : GroupNo} (free : s.store.pendingFlag g = false) (k : PendingKind) : s.putPending g k =
    { s with
      store := { s.store with pool := s.store.pool ++ [⟨g, k⟩] }
      engine := { s.engine with build := s.engine.build ++ [g], episode := s.engine.openedEpisode s.clock.now }
      journal := { s.journal with episodeOpen := s.journal.episodeOpen || s.engine.opens } } := by
  rw [State.putPending, if_neg (Bool.eq_false_iff.1 free), State.entryMade_eq]
  rfl

theorem Store.repooled_groups (st : Store) (g : GroupNo) (k : PendingKind) :
    (st.repooled g k).map (fun x => x.group) = st.pool.map fun x => x.group := by
  rw [Store.repooled, List.map_map]
  refine List.map_congr_left fun x _ => ?_
  by_cases same : x.group = g <;> simp [same]

theorem nodup_append_one {α : Type} {l : List α} {a : α} (nodup : l.Nodup) (fresh : a ∉ l) : (l ++ [a]).Nodup := by
  simpa using nodup.concat fresh

/-- A pending record replaces the one held for its group, or takes a free place with a BUILD entry (R110, R149). -/
theorem State.WorkLaw.putPending (law : s.WorkLaw) (g : GroupNo) (k : PendingKind) (place : s.store.hasPlace g = true) :
    (s.putPending g k).WorkLaw := by
  cases flag : s.store.pendingFlag g with
  | true =>
    have groups := s.store.repooled_groups g k
    rw [State.putPending_held flag]
    exact {
      uplinks := law.uplinks
      builds := law.builds
      pooled := groups ▸ law.pooled
      same := fun h => by rw [Store.pendingFlag_iff, groups, ← Store.pendingFlag_iff]; exact law.same h
      places := (List.length_map _).trans_le law.places }
  | false =>
    have unheld : ¬ s.store.pendingFlag g = true := Bool.eq_false_iff.1 flag
    have fresh : g ∉ s.store.pool.map fun x => x.group := mt (s.store.pendingFlag_iff g).2 unheld
    have room : s.store.pool.length < Config.poolPlaces := by simpa [Store.hasPlace, flag] using place
    have groups : (s.store.pool ++ [(⟨g, k⟩ : PendingRecord)]).map (fun x => x.group) = (s.store.pool.map fun x => x.group) ++ [g] :=
      List.map_append
    rw [State.putPending_free flag]
    exact {
      uplinks := law.uplinks
      builds := nodup_append_one law.builds (mt (law.same g).1 unheld)
      pooled := groups ▸ nodup_append_one law.pooled fresh
      same := fun h => by
        rw [Store.pendingFlag_iff, groups, List.mem_append, List.mem_append, law.same h, Store.pendingFlag_iff]
      places := by simpa using room }

/-- A command that comes in on the port has its effect or leaves the ledger. -/
theorem takeCommand_next_ledger {inPhase : Bool} {effect : State → State}
    (h : Host.Outcome.next (s.takeCommand inPhase effect) = (.next t : Host.Outcome State Fault Refusal)) :
    t = effect s ∨ t.ledger = s.ledger := by
  obtain rfl := Host.Outcome.next.inj h
  rcases s.takeCommand_cases inPhase effect with ⟨-, -, e⟩ | ⟨-, -, e⟩ | ⟨-, e⟩ | ⟨-, e⟩
  · exact .inl e
  · exact .inr (by rw [e]; rfl)
  · exact .inr (by rw [e]; rfl)
  · exact .inr (by rw [e])

/-- COMMIT and RELEASE leave the ledger, or put a record or a release into the pool, where it has a place (R149, R150). -/
theorem execCommit_ledger (b0 b1 : Byte) (h : execCommit b0 b1 s = .next t) : t.ledger = s.ledger ∨
    ∃ g k, s.store.hasPlace g = true ∧ t.ledger = (s.putPending g k).ledger := by
  rcases takeCommand_next_ledger h with rfl | same
  · split
    · exact .inl rfl
    · split
      · next place => exact .inr ⟨_, _, place, rfl⟩
      · exact .inl rfl
  · exact .inl same

theorem execRelease_ledger (b0 b1 : Byte) (h : execRelease b0 b1 s = .next t) : t.ledger = s.ledger ∨
    ∃ g k, s.store.hasPlace g = true ∧ t.ledger = (s.putPending g k).ledger := by
  rcases takeCommand_next_ledger h with rfl | same
  · split
    · next place => exact .inr ⟨_, _, place, rfl⟩
    · exact .inl rfl
  · exact .inl same

/-! ### Every command -/

theorem State.WorkLaw.of_ledger (law : s.WorkLaw) (h : t.ledger = s.ledger) : t.WorkLaw := law.of_queues (State.queues_of_ledger h)

theorem State.WorkLaw.pooling (law : s.WorkLaw) (h : t.ledger = s.ledger ∨
    ∃ g k, s.store.hasPlace g = true ∧ t.ledger = (s.putPending g k).ledger) : t.WorkLaw := by
  rcases h with same | ⟨g, k, place, put⟩
  · exact law.of_ledger same
  · exact (law.putPending g k place).of_ledger put

theorem exec_workLaw (c : Instr) (law : s.WorkLaw) (h : exec c s = .next t) : t.WorkLaw := by
  cases reset : c.canReset with
  | true =>
    rcases exec_canReset_ledger c reset h with same | cleared
    · exact law.of_ledger same
    · exact reset_workLaw.of_ledger cleared
  | false =>
    cases on : c.onWork with
    | false => exact law.notified (exec_notified c on reset h)
    | true =>
      cases c with
      | arbiterTake => exact law.arbiterTake h
      | reconcile time => exact law.reconcile time h
      | installation => exact law.of_queues (execInstallation_queues h)
      | settleDeadline => exact law.of_queues (execSettleDeadline_queues h)
      | commit b0 b1 => exact law.pooling (execCommit_ledger b0 b1 h)
      | release b0 b1 => exact law.pooling (execRelease_ledger b0 b1 h)
      | _ => cases on

/-! ### The bound on the worklist -/

/-- With one entry for an uplink at most, the 128 uplinks bound the URGENT and CALM entries. -/
theorem OncePerUplink.length_le {p q : List WorkEntry} (h : OncePerUplink p q) : p.length + q.length ≤ 128 := by
  have := h.length_le_card
  simpa using this

/-- There are as many BUILD entries as pool places in use at most. -/
theorem State.WorkLaw.build_length_le (law : s.WorkLaw) : s.engine.build.length ≤ 16 := by
  have held : s.engine.build ⊆ s.store.pool.map fun x => x.group := fun g waits =>
    (s.store.pendingFlag_iff g).1 ((law.same g).1 waits)
  calc s.engine.build.length
    _ ≤ (s.store.pool.map fun x => x.group).length := (law.builds.subperm held).length_le
    _ = s.store.pool.length := List.length_map _
    _ ≤ 16 := law.places

theorem Engine.worklistLength_eq (e : Engine) : e.worklistLength = e.urgent.length + e.calm.length + e.build.length +
    (if e.sweep = none then 0 else 1) := by
  unfold Engine.worklistLength
  cases e.sweep <;> rfl

/-- Settles O35: only notices, the arbiter's take, a suspension, COMMIT and RELEASE touch the queues, and each keeps the law; its
128 uplinks and 16 places with one SWEEP make 145. -/
theorem workLawIsKept : Obligations.WorkLawIsKept := by
  refine ⟨fun s t law h => ?_, fun s => ⟨s.engine.worklistLength_eq, fun law => ?_⟩⟩
  · unfold step at h
    split at h
    · obtain rfl := Host.Outcome.next.inj h
      exact law.of_ledger (s.elapse_ledger 1)
    · next c rest _ => exact exec_workLaw c (law.of_ledger (s.withPending_ledger rest)) h
  · have uplinks := OncePerUplink.length_le law.uplinks
    have builds := law.build_length_le
    have sweep : (if s.engine.sweep = none then 0 else 1) ≤ 1 := by split <;> omega
    rw [Engine.worklistLength_eq]
    omega

end Sys2Proof.Machine
end

section
/-! The episode law (R122 to R124, R161) over every step, and the settle deadline (R124). -/

namespace Sys2Proof.Machine

variable {s t : State}

/-! ### An episode with work left -/

/-- The counts of an episode are at most 65535, and its group set is ascending (R123). -/
structure Episode.Bounded (e : Episode) : Prop where
  slots : e.slotsMoved ≤ Config.countMax
  views : e.viewChanges ≤ Config.countMax
  set : e.groups.Pairwise (· < ·)

/-- What the episode law comes to of an engine that is not at rest: an episode is open, with no settle deadline (R122, R124). -/
structure State.Working (s : State) (e : Episode) : Prop where
  opened : s.engine.episode = some e
  unsettled : e.settle = none
  bounded : e.Bounded
  flag : s.journal.episodeOpen = true

theorem State.EpisodeLaw.bounded (law : s.EpisodeLaw) {e : Episode} (opened : s.engine.episode = some e) : e.Bounded where
  slots := (law.counts e opened).1
  views := (law.counts e opened).2
  set := law.set e opened

theorem State.EpisodeLaw.of_open {e : Episode} (opened : s.engine.episode = some e)
    (settle : e.settle.isSome = true ↔ s.engine.atRest = true) (bounded : e.Bounded) (flag : s.journal.episodeOpen = true) :
    s.EpisodeLaw where
  closed := fun none => by rw [opened] at none; cases none
  settle := fun x same => by cases opened.symm.trans same; exact settle
  counts := fun x same => by cases opened.symm.trans same; exact ⟨bounded.slots, bounded.views⟩
  set := fun x same => by cases opened.symm.trans same; exact bounded.set
  flag := by rw [opened]; exact flag

theorem State.EpisodeLaw.of_closed (closed : s.engine.episode = none) (rest : s.engine.atRest = true)
    (flag : s.journal.episodeOpen = false) : s.EpisodeLaw where
  closed := fun _ => rest
  settle := fun x same => by rw [closed] at same; cases same
  counts := fun x same => by rw [closed] at same; cases same
  set := fun x same => by rw [closed] at same; cases same
  flag := by rw [closed]; exact flag

/-- An engine that is not at rest has an episode open, and it is not settling. -/
theorem State.EpisodeLaw.working (law : s.EpisodeLaw) (busy : s.engine.atRest = false) : ∃ e, s.Working e := by
  have no : ¬ s.engine.atRest = true := Bool.eq_false_iff.1 busy
  cases opened : s.engine.episode with
  | none => exact absurd (law.closed opened) no
  | some e =>
    exact ⟨e, opened, Option.not_isSome_iff_eq_none.1 (mt (law.settle e opened).1 no), law.bounded opened,
      by rw [law.flag, opened]; rfl⟩

theorem State.Working.withStore {e : Episode} (w : s.Working e) (x : Store) : (s.withStore x).Working e :=
  ⟨w.opened, w.unsettled, w.bounded, w.flag⟩

theorem State.Working.withEngine {e : Episode} (w : s.Working e) (x : Engine) (episode : x.episode = s.engine.episode) :
    (s.withEngine x).Working e :=
  ⟨episode.trans w.opened, w.unsettled, w.bounded, w.flag⟩

/-- An episode with work left keeps the law while there is work. -/
theorem State.Working.episodeLaw {e : Episode} (w : s.Working e) (busy : s.engine.atRest = false) : s.EpisodeLaw :=
  .of_open w.opened (by rw [w.unsettled, busy]; decide) w.bounded w.flag

/-- An episode with work left, its settle deadline set where the engine comes to rest (R124). -/
theorem State.Working.settled {e : Episode} (w : s.Working e) (deadline : Nat)
    (episode : t.engine.episode = s.engine.episode.map (Episode.settling t.engine deadline))
    (flag : t.journal.episodeOpen = s.journal.episodeOpen) : t.EpisodeLaw := by
  rw [w.opened] at episode
  refine .of_open episode ?_ ⟨w.bounded.slots, w.bounded.views, w.bounded.set⟩ (flag.trans w.flag)
  rw [Engine.atRest_iff, Episode.settling, w.unsettled]
  by_cases rest : t.engine.job = none ∧ t.engine.worklistLength = 0 <;> simp [rest]

/-! ### Entries made -/

/-- The law reads the ledger alone. -/
theorem State.EpisodeLaw.of_ledger (law : s.EpisodeLaw) (h : t.ledger = s.ledger) : t.EpisodeLaw := by
  obtain ⟨rest, episode, flag⟩ := State.ledger_rest h
  constructor
  case closed => rw [rest, episode]; exact law.closed
  case settle => rw [rest, episode]; exact law.settle
  case counts => rw [episode]; exact law.counts
  case set => rw [episode]; exact law.set
  case flag => rw [flag, episode]; exact law.flag

/-- An entry about to be made opens an episode or ends the settling of an open one (R122, R124). -/
theorem State.EpisodeLaw.opening (law : s.EpisodeLaw) : ∃ e, s.engine.openedEpisode s.clock.now = some e ∧ e.settle = none ∧
    e.Bounded ∧ (s.journal.episodeOpen || s.engine.opens) = true := by
  unfold Engine.openedEpisode Engine.opens
  rw [law.flag]
  cases opened : s.engine.episode with
  | none => exact ⟨⟨s.clock.now, [], 0, 0, none⟩, by simp [law.closed opened], rfl, ⟨Nat.zero_le _, Nat.zero_le _, .nil⟩, by
      simp [law.closed opened]⟩
  | some e => exact ⟨{ e with settle := none }, rfl, rfl, ⟨(law.bounded opened).slots, (law.bounded opened).views,
      (law.bounded opened).set⟩, rfl⟩

/-- An entry made leaves an engine that is not at rest, with an episode open. -/
theorem State.EpisodeLaw.entered (law : s.EpisodeLaw) (busy : t.engine.atRest = false)
    (episode : t.engine.episode = s.engine.openedEpisode s.clock.now)
    (flag : t.journal.episodeOpen = (s.journal.episodeOpen || s.engine.opens)) : t.EpisodeLaw := by
  obtain ⟨e, opened, unsettled, bounded, raised⟩ := law.opening
  exact State.Working.episodeLaw (e := e) ⟨episode.trans opened, unsettled, bounded, flag.trans raised⟩ busy

theorem Engine.busy_of_length {e : Engine} (waiting : 0 < e.worklistLength) : e.atRest = false := by
  rw [Bool.eq_false_iff, ne_eq, Engine.atRest_iff]
  omega

/-- A view change counted, which saturates (R123). -/
theorem State.EpisodeLaw.countViewChange (law : s.EpisodeLaw) : s.countViewChange.EpisodeLaw := by
  cases opened : s.engine.episode with
  | none => exact .of_closed (congrArg (Option.map _) opened) (law.closed opened) (by have := law.flag; rwa [opened] at this)
  | some e =>
    have bounded := law.bounded opened
    refine .of_open (congrArg (Option.map _) opened) (law.settle e opened) ⟨bounded.slots, Nat.min_le_right _ _, bounded.set⟩ ?_
    have := law.flag
    rwa [opened] at this

theorem State.EpisodeLaw.noticeLeft (law : s.EpisodeLaw) (u : Uplink) : (s.noticeLeft u).EpisodeLaw := by
  refine State.EpisodeLaw.countViewChange ?_
  split
  · exact law
  · rw [State.entryMade_eq]
    refine law.entered (Engine.busy_of_length ?_) rfl rfl
    simp only [State.makeUrgent, State.withEngine_engine, Engine.worklistLength, List.length_append, List.length_singleton]
    omega

theorem State.EpisodeLaw.noticeEntered (law : s.EpisodeLaw) (u : Uplink) : (s.noticeEntered u).EpisodeLaw := by
  refine State.EpisodeLaw.countViewChange ?_
  split
  · exact law
  · rw [State.entryMade_eq]
    refine law.entered (Engine.busy_of_length ?_) rfl rfl
    simp only [State.makeCalm, State.withEngine_engine, Engine.worklistLength, List.length_append, List.length_singleton]
    omega

theorem State.EpisodeLaw.placeSweep (law : s.EpisodeLaw) : s.placeSweep.EpisodeLaw := by
  rw [State.placeSweep_eq]
  exact law.entered (Engine.busy_of_length (Nat.succ_pos _)) rfl rfl

theorem State.EpisodeLaw.notified (h : s.Notified t) : s.EpisodeLaw → t.EpisodeLaw := by
  induction h with
  | same h => exact fun law => law.of_ledger h
  | left u s => exact fun law => law.noticeLeft u
  | entered u s => exact fun law => law.noticeEntered u
  | sweep s => exact State.EpisodeLaw.placeSweep
  | trans _ _ first second => exact second ∘ first

/-- A pending record that takes a free place of the pool makes a BUILD entry; one that replaces another makes none (R110). -/
theorem State.EpisodeLaw.putPending (law : s.EpisodeLaw) (g : GroupNo) (k : PendingKind) : (s.putPending g k).EpisodeLaw := by
  cases flag : s.store.pendingFlag g with
  | true =>
    rw [State.putPending_held flag]
    exact ⟨law.closed, law.settle, law.counts, law.set, law.flag⟩
  | false =>
    rw [State.putPending_free flag]
    refine law.entered (Engine.busy_of_length ?_) rfl rfl
    simp only [Engine.worklistLength, List.length_append, List.length_singleton]
    omega

/-! ### Jobs -/

theorem Engine.busy_of_job {e : Engine} {job : Job} (running : e.job = some job) : e.atRest = false := by
  simp [Engine.atRest, running]

theorem State.Working.completeJob {e : Episode} (w : s.Working e) : s.completeJob.EpisodeLaw := by
  rw [State.completeJob_eq]
  exact w.settled _ (Engine.episode_settled _ _ rfl rfl) rfl

theorem State.Working.walkOn {e : Episode} (w : s.Working e) (job : Job) (position : Option GroupNo) :
    (s.walkOn job position).EpisodeLaw := by
  unfold State.walkOn
  split
  · exact w.completeJob
  · refine State.Working.episodeLaw (e := e) ?_ (Engine.busy_of_job rfl)
    exact w.withEngine _ rfl

theorem State.Working.boundary {e : Episode} (w : s.Working e) (job : Job) (position : GroupNo) :
    (s.boundary job position).EpisodeLaw := by
  obtain ⟨x, eq, spec⟩ := s.boundary_spec job position
  rw [eq]
  exact w.settled _ spec.episode rfl

/-- What a replacement hands on keeps the episode open, its set ascending and its count saturated (R123). -/
theorem Episode.Bounded.outcome {e : Episode} (h : e.Bounded) (g : GroupNo) (moved : Nat) : (e.outcome g moved).Bounded where
  slots := Nat.min_le_right _ _
  views := h.views
  set := by
    unfold Episode.outcome
    dsimp only
    split
    · exact h.set
    · exact insertAsc_ascending g _ h.set

theorem State.Working.handOutcome {e : Episode} (w : s.Working e) (g : GroupNo) (old new : Mode) (moved : Nat) :
    (s.handOutcome g old new moved).Working (e.outcome g moved) := by
  rw [State.handOutcome_eq]
  refine ⟨congrArg (Option.map _) w.opened, w.unsettled, w.bounded.outcome g moved, ?_⟩
  dsimp only
  split
  · exact w.flag
  · exact (Journal.append_flag _ _).trans w.flag

theorem State.Working.reconcileGroup {e : Episode} (w : s.Working e) (g : GroupNo) (snapshot : List Uplink) :
    ∃ x, (s.reconcileGroup g snapshot).Working x := by
  unfold State.reconcileGroup
  split
  · exact ⟨e, w⟩
  · exact ⟨_, (w.withStore _).handOutcome _ _ _ _⟩

/-! ### The engine's commands -/

/-- A BUILD job is running once it begins, and otherwise nothing changes (R119). -/
theorem State.EpisodeLaw.beginBuild (law : s.EpisodeLaw) (busy : s.engine.atRest = false) (g : GroupNo) :
    (s.beginBuild g).EpisodeLaw := by
  obtain ⟨e, w⟩ := law.working busy
  unfold State.beginBuild
  split
  · exact law
  · refine State.Working.episodeLaw (e := e) ?_ (Engine.busy_of_job rfl)
    exact (w.withStore _).withEngine _ rfl

theorem State.EpisodeLaw.begin (law : s.EpisodeLaw) (busy : s.engine.atRest = false) (taken : Taken) :
    (s.begin taken).EpisodeLaw := by
  obtain ⟨e, w⟩ := law.working busy
  cases taken with
  | urgent x => exact (w.withEngine { s.engine with urgent := s.engine.urgent.tail } rfl).walkOn _ _
  | sweep x => exact (w.withEngine { s.engine with sweep := none } rfl).walkOn _ _
  | calm x => exact (w.withEngine { s.engine with calm := s.engine.calm.tail } rfl).walkOn _ _
  | build g => exact law.beginBuild busy g

/-- What the arbiter may take waits on the worklist (R112). -/
theorem State.busy_of_choice {taken : Taken} (choice : s.arbiterChoice = some taken) : s.engine.atRest = false := by
  rw [Bool.eq_false_iff, ne_eq, Engine.atRest_iff]
  rintro ⟨-, empty⟩
  cases phase : s.start.phase with
  | loading load =>
    rw [State.arbiterChoice_loading (by rw [State.isLoading, phase])] at choice
    cases choice
  | listen deadline =>
    have build : s.engine.build = [] := List.length_eq_zero_iff.1 (by unfold Engine.worklistLength at empty; omega)
    rw [State.arbiterChoice_listen phase, build] at choice
    cases choice
  | serve =>
    rw [State.arbiterChoice_empty phase empty] at choice
    cases choice

theorem State.EpisodeLaw.arbiterTake (law : s.EpisodeLaw) (h : execArbiterTake s = .next t) : t.EpisodeLaw := by
  obtain rfl := Host.Outcome.next.inj h
  split
  · exact law
  · split
    · next choice => exact law.begin (State.busy_of_choice choice) _
    · exact law

theorem State.EpisodeLaw.reconcile (law : s.EpisodeLaw) (time : SnapshotTime) (h : execReconcile time s = .next t) :
    t.EpisodeLaw := by
  obtain rfl := Host.Outcome.next.inj h
  split
  · exact law
  · next job running =>
    split
    · exact law
    · obtain ⟨e, w⟩ := law.working (Engine.busy_of_job running)
      obtain ⟨x, replaced⟩ := w.reconcileGroup _ _
      exact replaced.boundary _ _

theorem State.EpisodeLaw.installation (law : s.EpisodeLaw) (h : execInstallation s = .next t) : t.EpisodeLaw := by
  obtain rfl := Host.Outcome.next.inj h
  split
  · next running =>
    obtain ⟨e, w⟩ := law.working (Engine.busy_of_job running)
    exact ((w.withStore _).handOutcome _ _ _ _).completeJob
  · next running =>
    obtain ⟨e, w⟩ := law.working (Engine.busy_of_job running)
    exact ((w.withStore _).handOutcome _ _ _ _).completeJob
  all_goals exact law

theorem State.EpisodeLaw.settleDeadline (law : s.EpisodeLaw) (h : execSettleDeadline s = .next t) : t.EpisodeLaw := by
  obtain rfl := Host.Outcome.next.inj h
  split
  · exact law
  · split
    · exact law
    · split
      · next rest => exact .of_closed rfl rest rfl
      · exact law

/-! ### Every command -/

theorem State.EpisodeLaw.pooling (law : s.EpisodeLaw) (h : t.ledger = s.ledger ∨
    ∃ g k, s.store.hasPlace g = true ∧ t.ledger = (s.putPending g k).ledger) : t.EpisodeLaw := by
  rcases h with same | ⟨g, k, -, put⟩
  · exact law.of_ledger same
  · exact (law.putPending g k).of_ledger put

theorem exec_episodeLaw (c : Instr) (law : s.EpisodeLaw) (h : exec c s = .next t) : t.EpisodeLaw := by
  cases reset : c.canReset with
  | true =>
    rcases exec_canReset_ledger c reset h with same | cleared
    · exact law.of_ledger same
    · exact reset_episodeLaw.of_ledger cleared
  | false =>
    cases on : c.onWork with
    | false => exact law.notified (exec_notified c on reset h)
    | true =>
      cases c with
      | arbiterTake => exact law.arbiterTake h
      | reconcile time => exact law.reconcile time h
      | installation => exact law.installation h
      | settleDeadline => exact law.settleDeadline h
      | commit b0 b1 => exact law.pooling (execCommit_ledger b0 b1 h)
      | release b0 b1 => exact law.pooling (execRelease_ledger b0 b1 h)
      | _ => cases on

/-- Settles O36: an entry made opens an episode or ends its settling, and with work left it stays so; where the last job ends it settles,
and the deadline closes it at rest. -/
theorem episodeLawIsKept : Obligations.EpisodeLawIsKept := by
  intro s t law h
  unfold step at h
  split at h
  · obtain rfl := Host.Outcome.next.inj h
    exact law.of_ledger (s.elapse_ledger 1)
  · next c rest _ => exact exec_episodeLaw c (law.of_ledger (s.withPending_ledger rest)) h

/-! ### The settle deadline (R124, R161) -/

/-- After an append the ring holds a record. -/
theorem Journal.append_records_ne_nil (x : JournalRecord) (j : Journal) : (j.append x).records ≠ [] := fun none => by
  have newest := Journal.append_newest x j
  rw [Journal.newest, show (j.append x).committed ++ (j.append x).heldBack = [] from none] at newest
  cases newest

theorem State.alertAsserted_iff (s : State) : s.alertAsserted = true ↔ s.journal.committed ≠ [] := by
  simp [State.alertAsserted]

/-- Settles O37: the record is appended at the deadline and the Journal commits, which leaves ALERT_N asserted. -/
theorem settleDeadlineClosesTheEpisode : Obligations.SettleDeadlineClosesTheEpisode := by
  intro e deadline s opened settling rest
  have run : exec .settleDeadline s = .next ((s.advanceTo deadline).closeEpisode e) := by
    change execSettleDeadline s = _
    simp only [execSettleDeadline, opened, settling, rest, if_true]
  refine ⟨_, run, ?_, rfl, ?_, rfl⟩
  · rw [← State.advanceTo_now]
    rfl
  · exact (State.alertAsserted_iff _).2 (Journal.append_records_ne_nil _ _)

end Sys2Proof.Machine
end

section
/-! COMMIT and RELEASE whole (R110, R122, R148 to R150): the checks in their order, a replacement in place, and a new place with its BUILD
entry. -/

namespace Sys2Proof.Machine

variable {s : State}

/-! ### The checks of COMMIT (R149) -/

/-- The group number of the argument bytes; the six bits above it are ignored (section 12.4). -/
theorem groupArg_bytes (ignored : BitVec 6) (g : GroupNo) : groupArg ((ignored ++ BitVec.ofFin (w := 10) g).extractLsb' 8 8)
    ((ignored ++ BitVec.ofFin (w := 10) g).extractLsb' 0 8) = g := by
  have joined : ∀ w : BitVec 16, w.extractLsb' 8 8 ++ w.extractLsb' 0 8 = w.extractLsb' 0 16 := fun w =>
    BitVec.extractLsb'_append_extractLsb'_eq_extractLsb' rfl
  rw [groupArg, joined (ignored ++ BitVec.ofFin (w := 10) g), BitVec.extractLsb'_eq_self, extractLsb'_low]

/-- Check 3 of R149 passes where no weight is out of range. -/
theorem Record.all_weights_iff (r : Record) : (r.members.all fun m => decide (1 ≤ m.2.weight ∧ m.2.weight ≤ 16)) = true ↔
    ¬ ∃ m ∈ r.members, ¬ (1 ≤ m.2.weight ∧ m.2.weight ≤ 16) := by
  simp

/-- The checks pass a valid record (R149). -/
theorem Record.Valid.refusal {r : Record} (valid : r.Valid) : r.refusal = none := by
  obtain ⟨tier0, once, weights, least, most⟩ := valid
  have passed := (Record.all_weights_iff r).2 (by simpa using weights)
  have least : ¬ (r.minLive = 0 ∨ r.tier0Count < r.minLive) := by omega
  rw [Record.refusal, if_neg (by omega), if_neg (not_not.2 once), passed]
  exact if_neg least

section

variable (takes : s.TakesCommand) (running : s.isLoading = false) (b0 b1 : Byte)

include takes running

theorem exec_commit_taken : exec (.commit b0 b1) s = .next (match s.port.staging.refusal with
    | some c => s.respond c []
    | none => if s.store.hasPlace (groupArg b0 b1) then (s.putPending (groupArg b0 b1) (.record s.port.staging)).respond .ok []
        else s.respond .poolFull []) :=
  congrArg Host.Outcome.next (State.takeCommand_running _ s takes running)

theorem exec_release_taken : exec (.release b0 b1) s = .next
    (if s.store.hasPlace (groupArg b0 b1) then (s.putPending (groupArg b0 b1) .release).respond .ok []
      else s.respond .poolFull []) :=
  congrArg Host.Outcome.next (State.takeCommand_running _ s takes running)

/-- A record that a check refuses changes nothing (R149). -/
theorem exec_commit_refused {c : StatusCode} (refused : s.port.staging.refusal = some c) :
    exec (.commit b0 b1) s = .next (s.responding [c.byte]) := by
  rw [exec_commit_taken takes running, refused]
  rfl

/-- What COMMIT of a valid record and RELEASE have in common: check 5 and the pool (R149, R150). -/
theorem exec_pooling (release : Bool) (valid : release = false → s.port.staging.Valid) :
    exec (if release = true then .release b0 b1 else .commit b0 b1) s = .next
      (if s.store.hasPlace (groupArg b0 b1) then
        (s.putPending (groupArg b0 b1) (if release = true then .release else .record s.port.staging)).respond .ok []
      else s.respond .poolFull []) := by
  cases release with
  | true => exact exec_release_taken takes running b0 b1
  | false =>
    have commit := exec_commit_taken takes running b0 b1
    rw [(valid rfl).refusal] at commit
    exact commit

end

/-- Settles O45: the checks as `Record.refusal` orders them, and the pool as `State.putPending` leaves it. -/
theorem commitAndReleaseFillThePool : Obligations.CommitAndReleaseFillThePool := by
  intro g ignored release s takes running b0 b1 c kind r badWeight full
  have group : groupArg b0 b1 = g := groupArg_bytes ignored g
  have refused : ∀ code : StatusCode, release = false → r.refusal = some code → exec c s = .next (s.responding [code.byte]) := by
    rintro code rfl failed
    exact exec_commit_refused takes running b0 b1 failed
  have pooled := exec_pooling takes running b0 b1 release
  rw [group] at pooled
  refine ⟨fun commit tier0 => refused .noTier0 commit (if_pos tier0), fun commit tier0 twice => refused .dupUplink commit ?_,
    fun commit tier0 once bad => refused .badWeight commit ?_, fun commit tier0 once weights bad => refused .badMinLive commit ?_,
    fun valid ⟨free, used⟩ => ?_, fun valid held => ?_, fun valid free room => ?_⟩
  · exact (if_neg tier0).trans (if_pos twice)
  · have failed : (r.members.all fun m => decide (1 ≤ m.2.weight ∧ m.2.weight ≤ 16)) = false :=
      Bool.eq_false_iff.2 fun all => (Record.all_weights_iff r).1 all bad
    rw [Record.refusal, if_neg tier0, if_neg (not_not.2 once), failed]
    rfl
  · have passed := (Record.all_weights_iff r).2 weights
    rw [Record.refusal, if_neg tier0, if_neg (not_not.2 once), passed]
    exact if_pos bad
  · have place : s.store.hasPlace g = false := by simp [Store.hasPlace, free, Config.poolPlaces, not_lt.2 used]
    rw [place] at pooled
    exact pooled valid
  · have place : s.store.hasPlace g = true := by simp [Store.hasPlace, held]
    rw [place, State.putPending_held held] at pooled
    exact pooled valid
  · have place : s.store.hasPlace g = true := by simp [Store.hasPlace, Config.poolPlaces, room]
    rw [place, State.putPending_free free] at pooled
    refine ⟨_, pooled valid, rfl, fun law => ?_⟩
    obtain ⟨-, -, -, -, raised⟩ := law.opening
    refine ⟨raised, ?_⟩
    change s.engine.openedEpisode s.clock.now = _
    unfold Engine.openedEpisode
    cases opened : s.engine.episode with
    | none => exact if_pos (law.closed opened)
    | some e => rfl

end Sys2Proof.Machine
end

section
/-! The commands of the Lookup Unit (R127 to R130, R133 to R138): the arbiter's choice, a request, and what each take makes of the
state. -/

namespace Sys2Proof.Machine

variable {s t : State}

theorem State.ready_iff (s : State) : s.ready = true ↔ s.start.phase = .serve ∧ s.lookup.queue.length < 16 := by
  rw [State.ready, Bool.and_eq_true, s.isServe_iff, decide_eq_true_iff]
  rfl

theorem exec_lookupRequest_ready (word : BitVec 34) (ready : s.ready = true) : exec (.lookupRequest word) s =
    .next (s.withLookup { s.lookup with queue := s.lookup.queue ++ [requestOf word] }) :=
  congrArg Host.Outcome.next (if_pos ready)

/-- A request offered while ready is low is not taken (R128). -/
theorem exec_lookupRequest_low (word : BitVec 34) (low : ¬ s.ready = true) : exec (.lookupRequest word) s = .next s :=
  congrArg Host.Outcome.next (if_neg low)

/-! ### The arbiter's choice (R137, R138) -/

section

variable (serve : s.start.phase = .serve)

include serve

theorem State.channelChoice_dropAll (all : s.lookup.dropAll = true) : s.channelChoice = .dropAll := by
  simp [State.channelChoice, s.isServe_iff.2 serve, all]

section

variable (all : s.lookup.dropAll = false)

include all

theorem State.channelChoice_dropUplink {u : Uplink} {rest : List Uplink} (drops : s.lookup.dropUplinks = u :: rest) :
    s.channelChoice = .dropUplink u := by
  simp [State.channelChoice, s.isServe_iff.2 serve, all, drops]

variable (uplinks : s.lookup.dropUplinks = [])

include uplinks

/-- A request and a group drop that both wait take turns (R138). -/
theorem State.channelChoice_answer {q : Request} {rest : List Request} (queue : s.lookup.queue = q :: rest)
    (turn : s.lookup.dropGroups = [] ∨ s.lookup.lastKind = .dropGroup) : s.channelChoice = .answer q := by
  simp only [State.channelChoice, s.isServe_iff.2 serve, all, uplinks, queue]
  cases drops : s.lookup.dropGroups with
  | nil => rfl
  | cons g later => simp [turn.resolve_left (by simp [drops])]

theorem State.channelChoice_dropGroup {g : GroupNo} {rest : List GroupNo} (drops : s.lookup.dropGroups = g :: rest)
    (turn : s.lookup.queue = [] ∨ s.lookup.lastKind = .answer) : s.channelChoice = .dropGroup g := by
  simp only [State.channelChoice, s.isServe_iff.2 serve, all, uplinks, drops]
  cases queue : s.lookup.queue with
  | nil => rfl
  | cons q later => simp [turn.resolve_left (by simp [queue])]

theorem State.channelChoice_nothing (queue : s.lookup.queue = []) (drops : s.lookup.dropGroups = []) :
    s.channelChoice = .nothing := by
  simp [State.channelChoice, s.isServe_iff.2 serve, all, uplinks, queue, drops]

end

end

theorem State.channelChoice_outside (outside : ¬ s.start.phase = .serve) : s.channelChoice = .nothing := by
  simp [State.channelChoice, Bool.eq_false_iff.2 (mt s.isServe_iff.1 outside)]

/-- The arbiter finds nothing exactly outside SERVE and where nothing waits (R129, R137). -/
theorem State.channelChoice_eq_nothing (s : State) : s.channelChoice = .nothing ↔ ¬ (s.start.phase = .serve ∧
    (s.lookup.dropAll = true ∨ s.lookup.dropUplinks ≠ [] ∨ s.lookup.queue ≠ [] ∨ s.lookup.dropGroups ≠ [])) := by
  by_cases serve : s.start.phase = .serve
  case neg => simp [State.channelChoice_outside serve, serve]
  cases all : s.lookup.dropAll with
  | true => simp [State.channelChoice_dropAll serve all, serve]
  | false =>
  cases uplinks : s.lookup.dropUplinks with
  | cons u rest => simp [State.channelChoice_dropUplink serve all uplinks, serve]
  | nil =>
  cases queue : s.lookup.queue with
  | nil =>
    cases groups : s.lookup.dropGroups with
    | nil => simp [State.channelChoice_nothing serve all uplinks queue groups]
    | cons g rest => simp [State.channelChoice_dropGroup serve all uplinks groups (.inl queue), serve]
  | cons q rest =>
    cases groups : s.lookup.dropGroups with
    | nil => simp [State.channelChoice_answer serve all uplinks queue (.inl groups), serve]
    | cons g later =>
      cases kind : s.lookup.lastKind with
      | answer => simp [State.channelChoice_dropGroup serve all uplinks groups (.inr kind), serve]
      | dropGroup => simp [State.channelChoice_answer serve all uplinks queue (.inr kind), serve]

/-! ### The takes -/

/-- The state after an ANSWER to `q` (R130, R133, R138). -/
def State.answering (q : Request) (s : State) : State :=
  s.withLookup (Lookup.count (s.answerFor q).1 (s.answerFor q).2
    { s.lookup with queue := s.lookup.queue.tail, lastKind := .answer, emitted := some (.answer q.tag (s.answerFor q).1) })

/-- The state after the drop of `u` (R134). -/
def State.droppingUplink (u : Uplink) (s : State) : State :=
  s.withLookup { s.lookup with dropUplinks := removeAsc u s.lookup.dropUplinks, emitted := some (.dropUplink u) }

/-- The state after the drop of `g` (R135, R138). -/
def State.droppingGroup (g : GroupNo) (s : State) : State :=
  s.withLookup { s.lookup with
    dropGroups := removeAsc g s.lookup.dropGroups, lastKind := .dropGroup, emitted := some (.dropGroup g) }

/-- The state after DROP_ALL (R136). -/
def State.droppingAll (s : State) : State :=
  s.withLookup { s.lookup with dropAll := false, dropUplinks := [], dropGroups := [], emitted := some .dropAll }

/-- The take of a choice: an empty channel emits nothing. -/
def State.taking (s : State) : Choice → State
  | .answer q => s.answering q
  | .dropUplink u => s.droppingUplink u
  | .dropGroup g => s.droppingGroup g
  | .dropAll => s.droppingAll
  | .nothing => s

/-- The command that takes a choice. -/
def Choice.command : Choice → Option Instr
  | .answer _ => some .answer
  | .dropUplink _ => some .dropUplink
  | .dropGroup _ => some .dropGroup
  | .dropAll => some .dropAll
  | .nothing => none

/-- Each of the four commands takes what the arbiter chooses where that is of its kind, and else changes nothing (R137, log 3). -/
theorem exec_take (c : Instr) (take : c = .answer ∨ c = .dropUplink ∨ c = .dropGroup ∨ c = .dropAll) (s : State) :
    exec c s = .next (if s.channelChoice.command = some c then s.taking s.channelChoice else s) := by
  rcases take with rfl | rfl | rfl | rfl
  · change execAnswer s = _
    unfold execAnswer
    cases s.channelChoice <;> simp [Choice.command]
    rfl
  · change execDropUplink s = _
    unfold execDropUplink
    cases s.channelChoice <;> simp [Choice.command]
    rfl
  · change execDropGroup s = _
    unfold execDropGroup
    cases s.channelChoice <;> simp [Choice.command]
    rfl
  · change execDropAll s = _
    unfold execDropAll
    cases s.channelChoice <;> simp [Choice.command]
    rfl

/-- What a take of its kind makes of the state. -/
theorem exec_take_choice {c : Instr} {x : Choice} (choice : s.channelChoice = x)
    (take : c = .answer ∨ c = .dropUplink ∨ c = .dropGroup ∨ c = .dropAll) (kind : x.command = some c) :
    exec c s = .next (s.taking x) := by
  rw [exec_take c take, choice, if_pos kind]

/-- A take that changes the state is the one the arbiter chooses. -/
theorem exec_take_changes {c : Instr} (take : c = .answer ∨ c = .dropUplink ∨ c = .dropGroup ∨ c = .dropAll)
    (h : exec c s = .next t) (changes : t ≠ s) : s.channelChoice.command = some c ∧ t = s.taking s.channelChoice := by
  rw [exec_take c take] at h
  split at h
  · next kind => exact ⟨kind, (Host.Outcome.next.inj h).symm⟩
  · exact absurd (Host.Outcome.next.inj h).symm changes

/-- The counter of an answer leaves the rest of the Lookup Unit (R133). -/
theorem Lookup.count_eq (a : Answer) (byRule : Bool) (l : Lookup) : ∃ patched discarded noRoute, Lookup.count a byRule l =
    { l with patched := patched, discarded := discarded, noRoute := noRoute } := by
  cases a with
  | escape e => cases byRule <;> exact ⟨_, _, _, rfl⟩
  | _ => exact ⟨_, _, _, rfl⟩

/-- No take moves the phase, and each leaves the queue and the drops or takes from them. -/
theorem State.taking_sublist (x : Choice) (s : State) : (s.taking x).start = s.start ∧
    (s.taking x).lookup.queue.Sublist s.lookup.queue ∧ (s.taking x).lookup.dropUplinks.Sublist s.lookup.dropUplinks ∧
    (s.taking x).lookup.dropGroups.Sublist s.lookup.dropGroups := by
  cases x with
  | answer q =>
    obtain ⟨_, _, _, counted⟩ := Lookup.count_eq (s.answerFor q).1 (s.answerFor q).2
      { s.lookup with queue := s.lookup.queue.tail, lastKind := .answer, emitted := some (.answer q.tag (s.answerFor q).1) }
    simp only [State.taking, State.answering, counted]
    exact ⟨rfl, List.tail_sublist _, .refl _, .refl _⟩
  | dropUplink u => exact ⟨rfl, .refl _, List.filter_sublist, .refl _⟩
  | dropGroup g => exact ⟨rfl, .refl _, .refl _, List.filter_sublist⟩
  | dropAll => exact ⟨rfl, .refl _, List.nil_sublist _, List.nil_sublist _⟩
  | nothing => exact ⟨rfl, .refl _, .refl _, .refl _⟩

end Sys2Proof.Machine
end

section
/-! What the law of the lookup port (R128, R134, R135, R139) reads of a state, and that outside the Lookup Unit's own commands and the
resets no more happens to it than that drops enter their sets. -/

namespace Sys2Proof.Machine

/-- What the law of the lookup port reads of a state: the phase and the Lookup Unit. -/
def State.service (s : State) : Phase × Lookup := (s.start.phase, s.lookup)

/-- As the law of the lookup port reads it, the state stays as it is but that drops may enter their sets, each in its place (R134,
R135), and that SERVE may be entered (R173). -/
structure State.KeepsLookup (s t : State) : Prop where
  serving : s.isServe = true → t.isServe = true
  queue : t.lookup.queue = s.lookup.queue
  uplinks : s.lookup.dropUplinks.Pairwise (· < ·) → t.lookup.dropUplinks.Pairwise (· < ·)
  groups : s.lookup.dropGroups.Pairwise (· < ·) → t.lookup.dropGroups.Pairwise (· < ·)

variable {s t r : State}

theorem State.LookupLaw.of_keeps (law : s.LookupLaw) (h : s.KeepsLookup t) : t.LookupLaw where
  queue := h.queue ▸ law.queue
  uplinks := h.uplinks law.uplinks
  groups := h.groups law.groups
  quiet := fun outside => by
    rw [h.queue]
    exact law.quiet (Bool.eq_false_iff.2 fun serve => Bool.eq_false_iff.1 outside (h.serving serve))

theorem State.isServe_congr (phase : t.start.phase = s.start.phase) : t.isServe = s.isServe := by
  unfold State.isServe
  rw [phase]

namespace State

variable (s)

/-! ### Operations that leave the service -/

@[simp] theorem withClock_service (x : Clock) : (s.withClock x).service = s.service := rfl
@[simp] theorem withView_service (x : View) : (s.withView x).service = s.service := rfl
@[simp] theorem withBus_service (x : Bus) : (s.withBus x).service = s.service := rfl
@[simp] theorem withSender_service (x : Sender) : (s.withSender x).service = s.service := rfl
@[simp] theorem withStore_service (x : Store) : (s.withStore x).service = s.service := rfl
@[simp] theorem withEngine_service (x : Engine) : (s.withEngine x).service = s.service := rfl
@[simp] theorem withPending_service (x : List Instr) : (s.withPending x).service = s.service := rfl

@[simp] theorem elapse_service (d : Nat) : (s.elapse d).service = s.service := rfl
@[simp] theorem advanceTo_service (t : Nat) : (s.advanceTo t).service = s.service := rfl
@[simp] theorem append_service (b : JournalBody) : (s.append b).service = s.service := rfl
@[simp] theorem setCard_service (c : CardId) (x : CardRecord) : (s.setCard c x).service = s.service := rfl
@[simp] theorem setMonitor_service (p : Port) (m : Monitor) : (s.setMonitor p m).service = s.service := rfl
@[simp] theorem setFramer_service (f : Framer) : (s.setFramer f).service = s.service := rfl
@[simp] theorem raiseDue_service (f : FrameClass) : (s.raiseDue f).service = s.service := rfl
@[simp] theorem startFrame_service : s.startFrame.service = s.service := rfl
@[simp] theorem isolationEnd_service : s.isolationEnd.service = s.service := rfl
@[simp] theorem isolationMarked_service : s.isolationMarked.service = s.service := rfl
@[simp] theorem respond_service (c : StatusCode) (data : List Byte) : (s.respond c data).service = s.service := rfl

@[simp] theorem appendIf_service (b : Option JournalBody) : (s.appendIf b).service = s.service := by cases b <;> rfl
@[simp] theorem framingError_service (aborted : Bool) : (s.framingError aborted).service = s.service := by cases aborted <;> rfl
@[simp] theorem crcError_service (aborted : Bool) : (s.crcError aborted).service = s.service := by cases aborted <;> rfl

@[simp] theorem countAbort_service (cls : FrameClass) : (s.countAbort cls).service = s.service := by
  simp only [countAbort]
  split <;> rfl

@[simp] theorem startEdge_service (idle : Nat) : (s.startEdge idle).service = s.service := by
  rcases s.startEdge_cases idle with ⟨-, e⟩ | ⟨-, -, e⟩ | ⟨-, -, e⟩ <;> simp [e]

@[simp] theorem discardReception_service (receiving : Bool) : (s.discardReception receiving).service = s.service := by
  unfold discardReception
  split
  · simp
  · split <;> simp
  · rfl
  · rfl

@[simp] theorem putPending_service (g : GroupNo) (k : PendingKind) : (s.putPending g k).service = s.service := by
  cases held : s.store.pendingFlag g with
  | true => rw [putPending_held held]; rfl
  | false => rw [putPending_free held]; rfl

/-! ### The Repair Engine -/

@[simp] theorem completeJob_service : s.completeJob.service = s.service := by
  rw [completeJob_eq]
  rfl

@[simp] theorem walkOn_service (job : Job) (position : Option GroupNo) : (s.walkOn job position).service = s.service := by
  rw [walkOn_eq]
  split <;> simp

@[simp] theorem boundary_service (job : Job) (position : GroupNo) : (s.boundary job position).service = s.service := by
  obtain ⟨e, boundary, -⟩ := s.boundary_spec job position
  rw [boundary, withEngine_service]

@[simp] theorem begin_service (taken : Taken) : (s.begin taken).service = s.service := by
  cases taken with
  | build g =>
    simp only [State.begin, beginBuild]
    split <;> rfl
  | urgent w => exact walkOn_service _ _ _
  | sweep e => exact walkOn_service _ _ _
  | calm w => exact walkOn_service _ _ _

end State

namespace State.KeepsLookup

/-- The law reads the service alone. -/
theorem of_service (h : t.service = s.service) : s.KeepsLookup t := by
  obtain ⟨phase, lookup⟩ := Prod.mk.inj h
  exact ⟨fun serve => (isServe_congr phase).trans serve, congrArg Lookup.queue lookup, lookup ▸ id, lookup ▸ id⟩

theorem refl (s : State) : s.KeepsLookup s := .of_service rfl

theorem trans (a : s.KeepsLookup t) (b : t.KeepsLookup r) : s.KeepsLookup r where
  serving := b.serving ∘ a.serving
  queue := b.queue.trans a.queue
  uplinks := b.uplinks ∘ a.uplinks
  groups := b.groups ∘ a.groups

theorem before (h : t.service = s.service) (k : t.KeepsLookup r) : s.KeepsLookup r := .trans (.of_service h) k

theorem after (k : s.KeepsLookup t) (h : r.service = t.service) : s.KeepsLookup r := .trans k (.of_service h)

/-- An event of the view leaves all of the Lookup Unit but for the uplink drops. -/
theorem of_same (h : s.SameButEntries t)
    (uplinks : s.lookup.dropUplinks.Pairwise (· < ·) → t.lookup.dropUplinks.Pairwise (· < ·)) : s.KeepsLookup t := by
  obtain ⟨drops, lookup⟩ := h.lookup
  refine ⟨fun serve => (isServe_congr (congrArg Start.phase h.start)).trans serve, ?_, uplinks, ?_⟩
  · rw [lookup]
  · rw [lookup]
    exact id

/-! ### Events of the view -/

theorem handLeft (u : Uplink) (d : EntryDetail) (s : State) : s.KeepsLookup (s.handLeft u d) := by
  obtain ⟨-, drops, -, -⟩ := State.handLeft_parts u d s
  exact .of_same (State.handLeft_same u d s) fun ascending => drops ▸ insertAsc_ascending u _ ascending

theorem handEntered (u : Uplink) (s : State) : s.KeepsLookup (s.handEntered u) := by
  obtain ⟨-, lookup, -, -⟩ := State.handEntered_parts u s
  exact .of_same (State.handEntered_same u s) (lookup ▸ id)

theorem handChange (u : Uplink) (old new : EntryState) (s : State) : s.KeepsLookup (s.handChange u old new) := by
  unfold State.handChange
  split
  · exact .refl s
  · split
    · exact handLeft u _ s
    · split
      · exact handEntered u s
      · exact .of_service rfl

theorem moveEntry (u : Uplink) (e : Entry) (s : State) : s.KeepsLookup (s.moveEntry u e) :=
  before (s.withView_service _) (handChange u _ _ _)

theorem refindAll (us : List Uplink) (s : State) : s.KeepsLookup (s.refindAll us) := by
  induction us generalizing s with
  | nil => exact .refl s
  | cons u us ih => exact (moveEntry u _ s).trans (ih _)

theorem handStatus (p : Port) (old : PortStatus) (s : State) : s.KeepsLookup (s.handStatus p old) := by
  unfold State.handStatus
  split
  · exact .refl s
  · refine before ?_ (moveEntry _ _ _)
    split <;> rfl

theorem decayPort (p : Port) (s : State) : s.KeepsLookup (s.decayPort p) := by
  rw [State.decayPort_eq]
  exact before (s.setMonitor_service p _) (handStatus _ _ _)

theorem foldl_decayPort (ps : List Port) (s : State) : s.KeepsLookup (ps.foldl State.decayPort s) := by
  induction ps generalizing s with
  | nil => exact .refl s
  | cons p ps ih => exact (decayPort p s).trans (ih _)

theorem loseCard (c : CardId) (s : State) : s.KeepsLookup (s.loseCard c) :=
  before ((append_service _ _).trans (s.setCard_service c _)) (refindAll _ _)

theorem applyFrame (c : CardId) (cls : FrameClass) (st : Statuses) (s : State) : s.KeepsLookup (s.applyFrame c cls st) :=
  before ((appendIf_service _ _).trans (s.setCard_service c _)) (refindAll _ _)

theorem isolationStart (s : State) : s.KeepsLookup s.isolationStart := by
  rw [State.isolationStart_eq]
  split
  · exact before s.isolationMarked_service (refindAll _ _)
  · exact .of_service s.isolationMarked_service

theorem setDraining (b : Bool) (s : State) : s.KeepsLookup (s.setDraining b) :=
  before (s.withView_service _) (refindAll _ _)

/-! ### The notice bus -/

theorem dispose (card : CardId) (cls : FrameClass) (st : Statuses) (s : State) : s.KeepsLookup (s.dispose card cls st) := by
  unfold State.dispose
  dsimp only
  split
  · exact .of_service (by split <;> rfl)
  · exact before (s.withBus_service _) (applyFrame card cls st _)

theorem judge (aborted : Bool) (bits : BitVec 48) (s : State) : s.KeepsLookup (s.judge aborted bits) := by
  unfold State.judge
  split
  · exact .of_service (framingError_service _ _)
  · split
    · exact .of_service (crcError_service _ _)
    · exact dispose _ _ _ _

theorem hear (aborted : Bool) (taken : List Bool) (s : State) : s.KeepsLookup (s.hear aborted taken) := by
  rcases s.hear_cases aborted taken with ⟨-, e⟩ | ⟨-, -, e⟩ | ⟨-, -, e⟩ <;> rw [e]
  · exact .of_service (framingError_service _ _)
  · exact .of_service rfl
  · exact before (s.setFramer_service _) (judge _ _ _)

theorem abortFrame (cls : FrameClass) (taken : List Bool) (s : State) : s.KeepsLookup (s.abortFrame cls taken) :=
  before (s.countAbort_service cls) (hear _ _ _)

theorem readBack (cls : FrameClass) (st : Statuses) (sent : Nat) (b : Bool) (s : State) :
    s.KeepsLookup (s.readBack cls st sent b) := by
  cases own : (lineBits cls s.start.cardId st)[sent]? with
  | none => exact .of_service (by simp [State.readBack, own])
  | some x =>
    rcases s.readBack_cases cls st sent x b own with ⟨-, -, e⟩ | ⟨-, -, e⟩ | ⟨-, -, e⟩ | ⟨-, -, e⟩ <;> rw [e]
    · exact .of_service rfl
    · exact .of_service rfl
    · exact .of_service rfl
    · exact abortFrame _ _ _

theorem takeBit (b : Bool) (s : State) : s.KeepsLookup (s.takeBit b) := by
  unfold State.takeBit
  split
  · exact .refl s
  · exact .of_service (by split <;> simp)
  · exact hear _ _ _
  · exact readBack _ _ _ _ _

theorem takeBits (bits : List Bool) (s : State) : s.KeepsLookup (s.takeBits bits) := by
  induction bits generalizing s with
  | nil => exact .refl s
  | cons b bits ih => exact (takeBit b s).trans (ih _)

theorem enterFault (receiving : Bool) (s : State) : s.KeepsLookup (s.enterFault receiving) :=
  before ((append_service _ _).trans ((withBus_service _ _).trans (s.discardReception_service receiving))) (isolationStart _)

/-! ### Groups -/

theorem handOutcome (g : GroupNo) (old new : Mode) (moved : Nat) (s : State) : s.KeepsLookup (s.handOutcome g old new moved) := by
  rw [State.handOutcome_eq]
  refine ⟨id, rfl, id, fun ascending => ?_⟩
  dsimp only
  split
  · exact ascending
  · exact insertAsc_ascending g _ ascending

theorem reconcileGroup (g : GroupNo) (snapshot : List Uplink) (s : State) : s.KeepsLookup (s.reconcileGroup g snapshot) := by
  unfold State.reconcileGroup
  split
  · exact .refl s
  · exact before (s.withStore_service _) (handOutcome _ _ _ _ _)

theorem installGroup (g : GroupNo) (x : Record) (snapshot : List Uplink) (s : State) :
    s.KeepsLookup (s.installGroup g x snapshot) :=
  before (s.withStore_service _) (handOutcome _ _ _ _ _)

theorem releaseGroup (g : GroupNo) (s : State) : s.KeepsLookup (s.releaseGroup g) :=
  before (s.withStore_service _) (handOutcome _ _ _ _ _)

/-! ### The table port and the Start-up Loader -/

/-- READ_COUNTERS leaves the queue and the drops (R153). -/
theorem clearCounters (s : State) : s.KeepsLookup s.clearCounters := ⟨id, rfl, id, id⟩

/-- A command that comes in on the port keeps what its effect keeps. -/
theorem takeCommand (inPhase : Bool) (effect : State → State) (h : s.KeepsLookup (effect s)) :
    s.KeepsLookup (s.takeCommand inPhase effect) := by
  rcases s.takeCommand_cases inPhase effect with ⟨-, -, e⟩ | ⟨-, -, e⟩ | ⟨-, e⟩ | ⟨-, e⟩ <;> rw [e]
  · exact h
  all_goals exact .of_service rfl

/-- A phase other than SERVE may become any other. -/
theorem of_outside (outside : s.isServe = false) (lookup : t.lookup = s.lookup) : s.KeepsLookup t where
  serving := fun serve => by rw [outside] at serve; cases serve
  queue := congrArg Lookup.queue lookup
  uplinks := lookup ▸ id
  groups := lookup ▸ id

theorem finishLoading (c : Settings) (noted : Option JournalBody) (outside : s.isServe = false) :
    s.KeepsLookup (s.finishLoading c noted) := by
  refine .of_outside outside ?_
  rw [State.finishLoading_eq]

/-- The entry to SERVE leaves the queue and both sets of drops (R136, R173). -/
theorem enterServe (s : State) : s.KeepsLookup s.enterServe := by
  obtain ⟨_, _, -, whole⟩ := s.enterServe_eq
  rw [whole]
  exact ⟨fun _ => rfl, rfl, id, id⟩

end State.KeepsLookup

end Sys2Proof.Machine
end

section
/-! The law of the lookup port (R128, R134, R135, R139) over every step. -/

namespace Sys2Proof

/-- The commands of the Lookup Unit and those that begin a load or perform a reset: the ones that do more to the lookup port than let
drops enter their sets. -/
def Instr.onLookup (c : Instr) : Bool :=
  c.canReset || c matches .lookupRequest _ | .answer | .dropUplink | .dropGroup | .dropAll | .resetNReleased _ | .warmNReleased _

namespace Machine

open State (KeepsLookup)

variable {s t : State}

/-! ### The commands at which drops enter at most -/

theorem execLightFall_service (p : Port) (h : execLightFall p s = .next t) : t.service = s.service := by
  obtain rfl := Host.Outcome.next.inj h
  dsimp only
  split
  · split <;> rfl
  · rfl

theorem execLightRise_service (p : Port) (h : execLightRise p s = .next t) : t.service = s.service := by
  obtain rfl := Host.Outcome.next.inj h
  dsimp only
  split
  · rfl
  · split <;> rfl

theorem execLossTimerExpiry_keepsLookup (p : Port) (h : execLossTimerExpiry p s = .next t) : s.KeepsLookup t := by
  obtain rfl := Host.Outcome.next.inj h
  split
  · exact .before (t := (s.advanceTo _).setMonitor p _) rfl (.handStatus _ _ _)
  all_goals exact .refl s

theorem execReturnTimerExpiry_keepsLookup (p : Port) (h : execReturnTimerExpiry p s = .next t) : s.KeepsLookup t := by
  obtain rfl := Host.Outcome.next.inj h
  split
  · exact .before (t := (s.advanceTo _).setMonitor p _) rfl (.handStatus _ _ _)
  all_goals exact .refl s

theorem execDecayTick_keepsLookup (h : execDecayTick s = .next t) : s.KeepsLookup t := by
  obtain rfl := Host.Outcome.next.inj h
  split
  · exact .refl s
  · exact .before (State.withClock_service _ _) (.foldl_decayPort _ _)

theorem execAdmissionDeadline_keepsLookup (u : Uplink) (h : execAdmissionDeadline u s = .next t) : s.KeepsLookup t := by
  obtain rfl := Host.Outcome.next.inj h
  split
  · exact .before (s.advanceTo_service _) (.moveEntry _ _ _)
  all_goals exact .refl s

theorem execPresenceDeadline_keepsLookup (c : CardId) (h : execPresenceDeadline c s = .next t) : s.KeepsLookup t := by
  obtain rfl := Host.Outcome.next.inj h
  split
  · exact .before (s.advanceTo_service _) (.loseCard c _)
  · exact .refl s

theorem execFrameReceived_keepsLookup (gap : Nat) (bits : List Bool) (h : execFrameReceived gap bits s = .next t) :
    s.KeepsLookup t := by
  obtain rfl := Host.Outcome.next.inj h
  split
  · split
    · exact .before (s.startEdge_service _) (.takeBits bits _)
    · exact .takeBits bits s
    · exact .takeBits bits s
    · exact .refl s
  · exact .refl s

theorem execFrameStart_service (gap : Nat) (edge : Bool) (h : execFrameStart gap edge s = .next t) : t.service = s.service := by
  obtain rfl := Host.Outcome.next.inj h
  split
  · split
    · split
      · simp
      · split <;> simp
    all_goals rfl
  · rfl

theorem execArbitrationLost_service (h : execArbitrationLost s = .next t) : t.service = s.service := by
  obtain rfl := Host.Outcome.next.inj h
  split
  · dsimp only
    split <;> rfl
  all_goals rfl

theorem execAbort_keepsLookup (h : execAbort s = .next t) : s.KeepsLookup t := by
  obtain rfl := Host.Outcome.next.inj h
  split
  · dsimp only
    split
    · exact .abortFrame _ _ s
    · split
      · exact .abortFrame _ _ s
      · exact .refl s
  all_goals exact .refl s

theorem execStuckLine_keepsLookup (stretch : Nat) (receiving : Bool) (h : execStuckLine stretch receiving s = .next t) :
    s.KeepsLookup t := by
  obtain rfl := Host.Outcome.next.inj h
  split
  · exact .enterFault receiving s
  · exact .refl s

theorem execFaultRecovery_service (recessive : Nat) (h : execFaultRecovery recessive s = .next t) : t.service = s.service := by
  obtain rfl := Host.Outcome.next.inj h
  split
  · split <;> simp
  all_goals rfl

theorem execArbiterTake_service (h : execArbiterTake s = .next t) : t.service = s.service := by
  obtain rfl := Host.Outcome.next.inj h
  split
  · rfl
  · split <;> simp

theorem execReconcile_keepsLookup (time : SnapshotTime) (h : execReconcile time s = .next t) : s.KeepsLookup t := by
  obtain rfl := Host.Outcome.next.inj h
  split
  · exact .refl s
  · split
    · exact .refl s
    · exact (KeepsLookup.reconcileGroup _ _ s).after (State.boundary_service _ _ _)

theorem execInstallation_keepsLookup (h : execInstallation s = .next t) : s.KeepsLookup t := by
  obtain rfl := Host.Outcome.next.inj h
  split
  · exact (KeepsLookup.installGroup _ _ _ s).after (State.completeJob_service _)
  · exact (KeepsLookup.releaseGroup _ s).after (State.completeJob_service _)
  all_goals exact .refl s

theorem execSettleDeadline_service (h : execSettleDeadline s = .next t) : t.service = s.service := by
  obtain rfl := Host.Outcome.next.inj h
  split
  · rfl
  · split
    · rfl
    · split <;> rfl

/-- A command that comes in on the port, where its effect keeps the Lookup Unit. -/
theorem takeCommand_next_keepsLookup {inPhase : Bool} {effect : State → State}
    (h : Host.Outcome.next (s.takeCommand inPhase effect) = (.next t : Host.Outcome State Fault Refusal))
    (e : s.KeepsLookup (effect s)) : s.KeepsLookup t :=
  Host.Outcome.next.inj h ▸ KeepsLookup.takeCommand inPhase effect e

theorem execCommit_keepsLookup (b0 b1 : Byte) (h : execCommit b0 b1 s = .next t) : s.KeepsLookup t := by
  refine takeCommand_next_keepsLookup h (.of_service ?_)
  split
  · rfl
  · split <;> simp

theorem execRelease_keepsLookup (b0 b1 : Byte) (h : execRelease b0 b1 s = .next t) : s.KeepsLookup t := by
  refine takeCommand_next_keepsLookup h (.of_service ?_)
  split <;> simp

theorem execDrain_keepsLookup (h : execDrain s = .next t) : s.KeepsLookup t := by
  refine takeCommand_next_keepsLookup h ?_
  split
  · exact .of_service rfl
  · split
    · exact .of_service rfl
    · exact (KeepsLookup.setDraining true s).after (by simp)

theorem execUndrain_keepsLookup (h : execUndrain s = .next t) : s.KeepsLookup t := by
  refine takeCommand_next_keepsLookup h ?_
  dsimp only
  split
  · exact (KeepsLookup.setDraining false s).after (by simp)
  · exact .of_service rfl

theorem execUnknownCommand_keepsLookup (byte : Byte) (h : execUnknownCommand byte s = .next t) : s.KeepsLookup t := by
  obtain rfl := Host.Outcome.next.inj h
  split
  · exact .refl s
  · exact .takeCommand _ _ (.of_service rfl)

/-- A phase in which the image is loaded is not SERVE. -/
theorem State.isServe_loading {x : Load} (phase : s.start.phase = .loading x) : s.isServe = false := by
  unfold State.isServe
  rw [phase]

theorem execLoadTimeout_keepsLookup (h : execLoadTimeout s = .next t) : s.KeepsLookup t := by
  obtain rfl := Host.Outcome.next.inj h
  split
  · next phase => exact .of_outside (State.isServe_loading phase) rfl
  all_goals exact .refl s

theorem execEndOfLoading_keepsLookup (rom : RomRead) (h : execEndOfLoading rom s = .next t) : s.KeepsLookup t := by
  obtain rfl := Host.Outcome.next.inj h
  split
  · next phase => exact .finishLoading _ _ (State.isServe_loading phase)
  · next phase => exact .finishLoading _ _ (State.isServe_loading phase)
  all_goals exact .refl s

theorem execListenDeadline_keepsLookup (h : execListenDeadline s = .next t) : s.KeepsLookup t := by
  obtain rfl := Host.Outcome.next.inj h
  split
  · exact .before (s.advanceTo_service _) (.enterServe _)
  all_goals exact .refl s

theorem exec_keepsLookup (c : Instr) (other : c.onLookup = false) (h : exec c s = .next t) : s.KeepsLookup t := by
  cases c with
  | lightFall p => exact .of_service (execLightFall_service p h)
  | lightRise p => exact .of_service (execLightRise_service p h)
  | lossTimerExpiry p => exact execLossTimerExpiry_keepsLookup p h
  | returnTimerExpiry p => exact execReturnTimerExpiry_keepsLookup p h
  | decayTick => exact execDecayTick_keepsLookup h
  | admissionDeadline u => exact execAdmissionDeadline_keepsLookup u h
  | presenceDeadline k => exact execPresenceDeadline_keepsLookup k h
  | frameReceived gap bits => exact execFrameReceived_keepsLookup gap bits h
  | frameStart gap edge => exact .of_service (execFrameStart_service gap edge h)
  | arbitrationLost => exact .of_service (execArbitrationLost_service h)
  | abort => exact execAbort_keepsLookup h
  | frameComplete | muteTimerExpiry | beaconTimerExpiry =>
    obtain rfl := Host.Outcome.next.inj h
    exact .of_service (by split <;> rfl)
  | stuckLine stretch receiving => exact execStuckLine_keepsLookup stretch receiving h
  | faultRecovery recessive => exact .of_service (execFaultRecovery_service recessive h)
  | arbiterTake => exact .of_service (execArbiterTake_service h)
  | reconcile time => exact execReconcile_keepsLookup time h
  | installation => exact execInstallation_keepsLookup h
  | settleDeadline => exact .of_service (execSettleDeadline_service h)
  | commit b0 b1 => exact execCommit_keepsLookup b0 b1 h
  | release b0 b1 => exact execRelease_keepsLookup b0 b1 h
  | drain => exact execDrain_keepsLookup h
  | undrain => exact execUndrain_keepsLookup h
  | readCounters => exact takeCommand_next_keepsLookup h ((KeepsLookup.clearCounters s).after (State.respond_service _ _ _))
  | status | stageClear | stageMember | stageOptions | readGroup | readSpread | readView | readCards | readJournal | warmReset =>
    exact takeCommand_next_keepsLookup h (.of_service rfl)
  | unknownCommand byte => exact execUnknownCommand_keepsLookup byte h
  | loadTimeout => exact execLoadTimeout_keepsLookup h
  | endOfLoading rom => exact execEndOfLoading_keepsLookup rom h
  | listenDeadline => exact execListenDeadline_keepsLookup h
  | powerUp | resetNAsserted | resetNReleased | warmNAsserted | warmNReleased | chipSelectRelease | lookupRequest | answer | dropUplink
  | dropGroup | dropAll => cases other

/-! ### The Lookup Unit's own commands -/

/-- What leaves the queue and the sets keeps the law, where outside SERVE no request is left. -/
theorem State.LookupLaw.of_sublists (law : s.LookupLaw) (queue : t.lookup.queue.Sublist s.lookup.queue)
    (uplinks : t.lookup.dropUplinks.Sublist s.lookup.dropUplinks) (groups : t.lookup.dropGroups.Sublist s.lookup.dropGroups)
    (quiet : t.isServe = false → t.lookup.queue = []) : t.LookupLaw where
  queue := queue.length_le.trans law.queue
  uplinks := law.uplinks.sublist uplinks
  groups := law.groups.sublist groups
  quiet := quiet

/-- A request joins in SERVE alone, and only where it has a place (R127, R128). -/
theorem State.LookupLaw.lookupRequest (law : s.LookupLaw) (word : BitVec 34) (h : exec (.lookupRequest word) s = .next t) :
    t.LookupLaw := by
  by_cases ready : s.ready = true
  · obtain ⟨serve, room⟩ := s.ready_iff.1 ready
    obtain rfl := Host.Outcome.next.inj ((exec_lookupRequest_ready word ready).symm.trans h)
    exact ⟨List.length_append.trans_le room, law.uplinks, law.groups,
      fun outside => absurd (s.isServe_iff.2 serve) (Bool.eq_false_iff.1 outside)⟩
  · obtain rfl := Host.Outcome.next.inj ((exec_lookupRequest_low word ready).symm.trans h)
    exact law

theorem State.LookupLaw.take (law : s.LookupLaw) {c : Instr}
    (take : c = .answer ∨ c = .dropUplink ∨ c = .dropGroup ∨ c = .dropAll) (h : exec c s = .next t) : t.LookupLaw := by
  by_cases changes : t = s
  · exact changes ▸ law
  obtain ⟨-, rfl⟩ := exec_take_changes take h changes
  obtain ⟨start, queue, uplinks, groups⟩ := s.taking_sublist s.channelChoice
  refine law.of_sublists queue uplinks groups fun outside => ?_
  rw [State.isServe_congr (congrArg Start.phase start)] at outside
  rw [law.quiet outside] at queue
  exact List.sublist_nil.1 queue

/-! ### Resets and the load (R139, R140, R168) -/

/-- No request and no drop waits. -/
theorem State.LookupLaw.of_empty (queue : t.lookup.queue = []) (uplinks : t.lookup.dropUplinks = [])
    (groups : t.lookup.dropGroups = []) : t.LookupLaw where
  queue := by simp [queue]
  uplinks := uplinks ▸ .nil
  groups := groups ▸ .nil
  quiet := fun _ => queue

theorem State.LookupLaw.of_lookup (law : s.LookupLaw) (outside : s.isServe = false) (lookup : t.lookup = s.lookup) : t.LookupLaw :=
  law.of_keeps (.of_outside outside lookup)

theorem State.beginLoad_lookup (straps : CardId) (s : State) : (s.beginLoad straps).lookup = s.lookup := by
  unfold State.beginLoad
  split <;> rfl

/-- Either reset empties the queue and the sets (R140). -/
theorem State.coldReset_lookupLaw (s : State) : s.coldReset.LookupLaw := .of_empty rfl rfl rfl

theorem State.warmReset_lookupLaw (s : State) : s.warmReset.LookupLaw := .of_empty rfl rfl rfl

/-- A load begins with the phase LOADING, from a state that is in it already (R168). -/
theorem State.LookupLaw.beginLoad (law : s.LookupLaw) (outside : s.isServe = false) (straps : CardId) :
    (s.beginLoad straps).LookupLaw := law.of_lookup outside (s.beginLoad_lookup straps)

/-- While a reset line is asserted the part is not in SERVE (R168). -/
theorem State.ResetLaw.outside (reset : s.ResetLaw) (held : s.pins.resetN = true ∨ s.pins.warmN = true) : s.isServe = false :=
  State.isServe_loading (reset held)

theorem exec_canReset_lookupLaw (c : Instr) (canReset : c.canReset = true) (law : s.LookupLaw) (h : exec c s = .next t) :
    t.LookupLaw := by
  cases c with
  | powerUp straps =>
    obtain rfl := Host.Outcome.next.inj h
    exact s.coldReset_lookupLaw.beginLoad rfl straps
  | resetNAsserted =>
    obtain rfl := Host.Outcome.next.inj h
    split
    · exact law
    · exact State.coldReset_lookupLaw _
  | warmNAsserted =>
    obtain rfl := Host.Outcome.next.inj h
    dsimp only
    split
    · exact law
    · split
      · exact law.of_keeps (.of_service rfl)
      · exact State.warmReset_lookupLaw _
  | chipSelectRelease r =>
    obtain rfl := Host.Outcome.next.inj h
    have again : ∀ u : State, u.LookupLaw → (if r.again = true then u.selectPort else u).LookupLaw := fun u law => by
      split
      · exact law.of_keeps (.of_service rfl)
      · exact law
    refine again _ ?_
    split
    · exact (State.warmReset_lookupLaw _).beginLoad rfl _
    · exact law.of_keeps (.of_service rfl)
  | _ => cases canReset

theorem exec_lookupLaw (c : Instr) (reset : s.ResetLaw) (law : s.LookupLaw) (h : exec c s = .next t) : t.LookupLaw := by
  cases canReset : c.canReset with
  | true => exact exec_canReset_lookupLaw c canReset law h
  | false =>
    cases own : c.onLookup with
    | false => exact law.of_keeps (exec_keepsLookup c own h)
    | true =>
      cases c with
      | lookupRequest word => exact law.lookupRequest word h
      | answer | dropUplink | dropGroup | dropAll => exact law.take (by simp) h
      | resetNReleased straps =>
        obtain rfl := Host.Outcome.next.inj h
        split
        · next low => exact law.of_lookup (reset.outside (.inl low)) (State.beginLoad_lookup straps _)
        · exact law
      | warmNReleased straps =>
        obtain rfl := Host.Outcome.next.inj h
        split
        · next low => exact law.of_lookup (reset.outside (.inr low)) (State.beginLoad_lookup straps _)
        · exact law
      | powerUp | resetNAsserted | warmNAsserted | chipSelectRelease => cases canReset
      | _ => cases own

/-- Settles O43: but for the Lookup Unit's own commands, the resets and the start of a load, drops enter their sets at most; requests join
only in SERVE with a place left, takes only remove, and a load begins where no request waits. -/
theorem lookupLawIsKept : Obligations.LookupLawIsKept := by
  intro s t reset law h
  unfold step at h
  split at h
  · obtain rfl := Host.Outcome.next.inj h
    exact law.of_keeps (.of_service (s.elapse_service 1))
  · next c rest _ => exact exec_lookupLaw c (s := s.withPending rest) reset (law.of_keeps (.of_service (s.withPending_service rest))) h

end Machine

end Sys2Proof
end

section
/-! Answers (R130 to R133): the candidates of the patch rule and its three levels, what an answer is for each occupant of the slot, its
counter, and that it names an ADMITTED uplink or none. -/

namespace Sys2Proof.Machine

variable {s t : State}

/-! ### The patch rule (R131) -/

/-- The candidates of a tier, place by place. -/
theorem Record.candidates_eq (r : Record) (t : Tier) (adm : Uplink → Bool) : r.candidates t adm =
    (List.finRange 8).filterMap fun i => match r.seats[i] with
      | some seat => if seat.tier = t ∧ adm seat.uplink = true then some seat.uplink else none
      | none => none := by
  rw [Record.candidates, Record.members, List.filter_filterMap, List.map_filterMap]
  refine List.filterMap_congr fun i _ => ?_
  cases r.seats[i] with
  | none => rfl
  | some seat => by_cases tier : seat.tier = t <;> cases admitted : adm seat.uplink <;> simp [tier, admitted]

theorem Record.mem_candidates {r : Record} {t : Tier} {adm : Uplink → Bool} {u : Uplink} (mem : u ∈ r.candidates t adm) :
    adm u = true := by
  simp only [Record.candidates, List.mem_map, List.mem_filter, Bool.and_eq_true] at mem
  obtain ⟨m, ⟨-, -, admitted⟩, rfl⟩ := mem
  exact admitted

theorem pick_nil (h : BitVec 16) : pick h [] = none := rfl

theorem pick_of_pos (h : BitVec 16) {found : List Uplink} (some' : 0 < found.length) :
    pick h found = some (found[h.toNat % found.length]'(Nat.mod_lt _ some')) :=
  List.getElem?_eq_getElem _

section

variable {r : Record} {tier : ActiveTier} {adm : Uplink → Bool} {active : Tier} {found : List Uplink} (h : BitVec 16)
  (level1 : tier.patchTier = active)

include level1

theorem patchAnswer_level1 (candidates : r.candidates active adm = found) (some' : 0 < found.length) :
    patchAnswer r tier adm h = .patched (found[h.toNat % found.length]'(Nat.mod_lt _ some')) active := by
  simp only [patchAnswer, level1, candidates, pick_of_pos h some']

variable (first : r.candidates active adm = [])

include first

theorem patchAnswer_level2 (candidates : r.candidates active.other adm = found) (some' : 0 < found.length) :
    patchAnswer r tier adm h = .patched (found[h.toNat % found.length]'(Nat.mod_lt _ some')) active.other := by
  simp only [patchAnswer, level1, first, pick_nil, candidates, pick_of_pos h some']

variable (second : r.candidates active.other adm = [])

include second

theorem patchAnswer_escape {e : Uplink} (escape : r.escape = some e) (admitted : adm e = true) :
    patchAnswer r tier adm h = .escape e := by
  simp only [patchAnswer, level1, first, second, pick_nil, escape, admitted, if_true]

theorem patchAnswer_discard (out : ∀ e, r.escape = some e → adm e = false) : patchAnswer r tier adm h = .discard := by
  simp only [patchAnswer, level1, first, second, pick_nil]
  cases escape : r.escape with
  | none => rfl
  | some e => simp [out e escape]

end

/-- What the patch rule can answer: an ADMITTED candidate, the ADMITTED escape, or DISCARD. -/
theorem patchAnswer_cases (r : Record) (tier : ActiveTier) (adm : Uplink → Bool) (h : BitVec 16) :
    (∃ u t, adm u = true ∧ patchAnswer r tier adm h = .patched u t) ∨
      (∃ e, adm e = true ∧ patchAnswer r tier adm h = .escape e) ∨ patchAnswer r tier adm h = .discard := by
  rcases Nat.eq_zero_or_pos (r.candidates tier.patchTier adm).length with first | found
  case inr => exact .inl ⟨_, _, Record.mem_candidates (List.getElem_mem _), patchAnswer_level1 h rfl rfl found⟩
  rw [List.length_eq_zero_iff] at first
  rcases Nat.eq_zero_or_pos (r.candidates tier.patchTier.other adm).length with second | found
  case inr => exact .inl ⟨_, _, Record.mem_candidates (List.getElem_mem _), patchAnswer_level2 h rfl first rfl found⟩
  rw [List.length_eq_zero_iff] at second
  by_cases out : ∀ e, r.escape = some e → adm e = false
  · exact .inr (.inr (patchAnswer_discard h rfl first second out))
  · simp only [not_forall, Bool.not_eq_false] at out
    obtain ⟨e, escape, admitted⟩ := out
    exact .inr (.inl ⟨e, admitted, patchAnswer_escape h rfl first second escape admitted⟩)

/-- Settles O40: level by level, the levels' lists being the model's candidates. -/
theorem patchRuleTriesThreeLevels : Obligations.PatchRuleTriesThreeLevels := by
  intro r tier adm h level first
  have active : tier.patchTier = first := by cases tier <;> rfl
  have level1 : r.candidates first adm = level first := r.candidates_eq first adm
  have level2 : r.candidates first.other adm = level first.other := r.candidates_eq first.other adm
  exact ⟨patchAnswer_level1 h active level1, fun none1 => patchAnswer_level2 h active (level1.trans none1) level2,
    fun none1 none2 e => patchAnswer_escape h active (level1.trans none1) (level2.trans none2),
    fun none1 none2 => patchAnswer_discard h active (level1.trans none1) (level2.trans none2)⟩

end Sys2Proof.Machine
end

section
/-! What an ANSWER is for each occupant of the slot, its counter and its word (R129, R130, R132, R133, section 12.3). -/

namespace Sys2Proof.Machine

variable {s t : State}

/-! ### The slot (R130) -/

/-- The slot of a hash is its number over 1024. -/
theorem slotOf_val (h : BitVec 16) : (slotOf h).val = h.toNat / 1024 := by
  have below := h.isLt
  change (h.extractLsb' 10 6).toNat = _
  rw [BitVec.extractLsb'_toNat, Nat.shiftRight_eq_div_pow]
  omega

section

variable {r : Record} {adm : Uplink → Bool}

theorem slotAnswer_member {i : MemberIdx} {seat : Seat} (place : r.seats[i] = some seat) (admitted : adm seat.uplink = true) :
    slotAnswer r adm (.member i) = some (.normal seat.uplink seat.tier) := by
  simp only [slotAnswer, place, admitted, if_true]

theorem slotAnswer_escape {e : Uplink} (escape : r.escape = some e) (admitted : adm e = true) :
    slotAnswer r adm .escape = some (.escape e) := by
  simp only [slotAnswer, escape, admitted, if_true]

theorem slotAnswer_member_out {i : MemberIdx} (out : ∀ seat, r.seats[i] = some seat → adm seat.uplink = false) :
    slotAnswer r adm (.member i) = none := by
  cases place : r.seats[i] with
  | none => simp only [slotAnswer, place]
  | some seat => simp [slotAnswer, place, out seat place]

theorem slotAnswer_escape_out (out : ∀ e, r.escape = some e → adm e = false) : slotAnswer r adm .escape = none := by
  cases escape : r.escape with
  | none => simp only [slotAnswer, escape]
  | some e => simp [slotAnswer, escape, out e escape]

/-- A slot answers straight only with an ADMITTED uplink. -/
theorem slotAnswer_admitted {o : Occupant} {a : Answer} (straight : slotAnswer r adm o = some a) :
    ∃ u, a.uplink = some u ∧ adm u = true := by
  cases o with
  | member i =>
    by_cases out : ∀ seat, r.seats[i] = some seat → adm seat.uplink = false
    · rw [slotAnswer_member_out out] at straight
      cases straight
    · simp only [not_forall, Bool.not_eq_false] at out
      obtain ⟨seat, place, admitted⟩ := out
      obtain rfl := Option.some.inj ((slotAnswer_member place admitted).symm.trans straight)
      exact ⟨_, rfl, admitted⟩
  | escape =>
    by_cases out : ∀ e, r.escape = some e → adm e = false
    · rw [slotAnswer_escape_out out] at straight
      cases straight
    · simp only [not_forall, Bool.not_eq_false] at out
      obtain ⟨e, escape, admitted⟩ := out
      obtain rfl := Option.some.inj ((slotAnswer_escape escape admitted).symm.trans straight)
      exact ⟨_, rfl, admitted⟩
  | empty => cases straight

end

/-! ### The answer (R130, R132) -/

section

variable {q : Request} {x : Group}

theorem State.answerFor_unused (unused : s.store.find q.group = none) : s.answerFor q = (.noRoute, false) := by
  simp only [State.answerFor, unused]

variable (used : s.store.find q.group = some x) {o : Occupant} (slot : x.spread[slotOf q.hash] = o)

include used slot

theorem State.answerFor_straight {a : Answer} (straight : slotAnswer x.record s.isAdmitted o = some a) :
    s.answerFor q = (a, false) := by
  simp only [State.answerFor, used, slot, straight]

theorem State.answerFor_patched (out : slotAnswer x.record s.isAdmitted o = none) :
    s.answerFor q = (patchAnswer x.record x.tier s.isAdmitted q.hash, true) := by
  simp only [State.answerFor, used, slot, out]

end

/-- An answer names an ADMITTED uplink, or none (R132). -/
theorem State.answerFor_admitted (q : Request) {u : Uplink} (names : (s.answerFor q).1.uplink = some u) : s.isAdmitted u = true := by
  cases used : s.store.find q.group with
  | none =>
    rw [State.answerFor_unused used] at names
    cases names
  | some x =>
    cases straight : slotAnswer x.record s.isAdmitted x.spread[slotOf q.hash] with
    | some a =>
      rw [State.answerFor_straight used rfl straight] at names
      obtain ⟨v, named, admitted⟩ := slotAnswer_admitted straight
      obtain rfl := Option.some.inj (named.symm.trans names)
      exact admitted
    | none =>
      rw [State.answerFor_patched used rfl straight] at names
      rcases patchAnswer_cases x.record x.tier s.isAdmitted q.hash with ⟨v, t, admitted, e⟩ | ⟨v, admitted, e⟩ | e <;>
        rw [e] at names
      · obtain rfl := Option.some.inj names
        exact admitted
      · obtain rfl := Option.some.inj names
        exact admitted
      · cases names

theorem State.answering_emitted (q : Request) (s : State) :
    (s.answering q).lookup.emitted = some (.answer q.tag (s.answerFor q).1) := by
  obtain ⟨_, _, _, counted⟩ := Lookup.count_eq (s.answerFor q).1 (s.answerFor q).2
    { s.lookup with queue := s.lookup.queue.tail, lastKind := .answer, emitted := some (.answer q.tag (s.answerFor q).1) }
  rw [State.answering, counted]
  rfl

/-- Settles O41: the answer emitted is the one computed for the head request, and it names an ADMITTED uplink or none. -/
theorem noAnswerNamesAnUplinkOutOfService : Obligations.NoAnswerNamesAnUplinkOutOfService := by
  intro s t tag a u h changes emitted names
  obtain ⟨kind, rfl⟩ := exec_take_changes (.inl rfl) h changes
  cases choice : s.channelChoice with
  | answer q =>
    rw [choice, State.taking, State.answering_emitted] at emitted
    obtain ⟨-, rfl⟩ := Message.answer.inj (Option.some.inj emitted)
    exact State.answerFor_admitted q names
  | _ => rw [choice] at kind; cases kind

/-! ### Its counter (R133) -/

/-- A counter rises whatever else the take does. -/
theorem Lookup.count_update (a : Answer) (byRule : Bool) (l : Lookup) (queue : List Request) (kind : LastKind) (m : Option Message) :
    Lookup.count a byRule { l with queue := queue, lastKind := kind, emitted := m } =
      { Lookup.count a byRule l with queue := queue, lastKind := kind, emitted := m } := by
  cases a with
  | escape e => cases byRule <;> rfl
  | _ => rfl

/-- The patch rule's answers count as DISCARD or as patched. -/
theorem Lookup.count_patchAnswer (r : Record) (tier : ActiveTier) (adm : Uplink → Bool) (h : BitVec 16) (l : Lookup) :
    Lookup.count (patchAnswer r tier adm h) true l = if patchAnswer r tier adm h = .discard then
      { l with discarded := satInc l.discarded } else { l with patched := satInc l.patched } := by
  rcases patchAnswer_cases r tier adm h with ⟨u, t, -, e⟩ | ⟨u, -, e⟩ | e <;> rw [e] <;> rfl

/-! ### Its word (section 12.3) -/

theorem uplinkBits_toNat (u : Uplink) : (uplinkBits u).toNat = u.val := rfl

/-- The number of an ANSWER's word: kind 0, the tag, and the fields of its class. -/
theorem Message.answer_word_toNat (tag : BitVec 8) (a : Answer) : (Message.answer tag a).word.toNat =
    2 ^ 14 * tag.toNat + 2 ^ 11 * a.code.toNat + 2 ^ 10 * a.tierBit.toNat + a.uplinkField.toNat := by
  simp only [Message.word, fields_toNat, BitVec.toNat_ofNat]
  omega

/-- The ANSWER to the head request, with the counter of its class (R130, R133, R138). -/
theorem exec_answer_answered {q : Request} {rest : List Request} {a : Answer} {byRule : Bool} {l : Lookup}
    (choice : s.channelChoice = .answer q) (queue : s.lookup.queue = q :: rest) (answer : s.answerFor q = (a, byRule))
    (counted : Lookup.count a byRule s.lookup = l) : exec .answer s = .next { s with lookup := { l with
      queue := rest, lastKind := .answer, emitted := some (.answer q.tag a) } } := by
  rw [exec_take_choice choice (.inl rfl) rfl, State.taking, State.answering, answer, Lookup.count_update, queue, counted]
  rfl

/-- Settles O39: the word field by field, and the answer by what the slot holds. -/
theorem answerIsComputedAtEmission : Obligations.AnswerIsComputedAtEmission := by
  refine ⟨fun tag u => ?_, fun q rest s serve all uplinks queue turn => ?_⟩
  · simp only [Message.answer_word_toNat, Answer.code, Answer.tierBit, Tier.code, Answer.uplinkField, uplinkBits_toNat]
    exact ⟨rfl, rfl, rfl, rfl, rfl, rfl, rfl⟩
  intro slot emit
  have choice := State.channelChoice_answer serve all uplinks queue turn
  have place : slotOf q.hash = slot := Fin.ext (slotOf_val q.hash)
  have occupant : ∀ sp : Spread, sp[slotOf q.hash] = sp[slot] := fun sp => congrArg (fun k : Slot => sp[k]) place
  refine ⟨fun unused => exec_answer_answered choice queue (State.answerFor_unused unused) rfl,
    fun x i seat used member seated admitted => ?_, fun x e used held escape admitted => ?_, fun x used out => ?_⟩
  · have answer := State.answerFor_straight used ((occupant _).trans member) (slotAnswer_member seated admitted)
    exact exec_answer_answered choice queue answer rfl
  · have answer := State.answerFor_straight used ((occupant _).trans held) (slotAnswer_escape escape admitted)
    exact exec_answer_answered choice queue answer rfl
  · have out : slotAnswer x.record s.isAdmitted x.spread[slot] = none := by
      rcases out with empty | ⟨i, member, out⟩ | ⟨held, out⟩
      · exact congrArg (slotAnswer x.record s.isAdmitted) empty
      · exact (congrArg (slotAnswer x.record s.isAdmitted) member).trans (slotAnswer_member_out out)
      · exact (congrArg (slotAnswer x.record s.isAdmitted) held).trans (slotAnswer_escape_out out)
    have answer := State.answerFor_patched used (occupant _) out
    exact exec_answer_answered choice queue answer (Lookup.count_patchAnswer _ _ _ _ _)

end Sys2Proof.Machine
end

section
/-! Requests and drops (R127, R128, R134 to R138, R178, section 12.3): the request word, the words of the drops, the valid line, and each
drop as it leaves its set. -/

namespace Sys2Proof.Machine

variable {s : State}

/-- The three fields of the request word (section 12.3). -/
theorem requestOf_fields (tag : BitVec 8) (group : BitVec 10) (hash : BitVec 16) :
    requestOf (tag ++ group ++ hash) = ⟨tag, group.toFin, hash⟩ := by
  have hashBits : (tag ++ group ++ hash).extractLsb' 0 16 = hash := extractLsb'_low
  have groupBits : (tag ++ group ++ hash).extractLsb' 16 10 = group := extractLsb'_past 0 extractLsb'_low
  have tagBits : (tag ++ group ++ hash).extractLsb' 26 8 = tag :=
    extractLsb'_past 10 (extractLsb'_past 0 BitVec.extractLsb'_eq_self)
  rw [requestOf, hashBits, groupBits, tagBits]

/-- Settles O38: the request joins where the ready line is high. -/
theorem lookupRequestJoinsTheQueue : Obligations.LookupRequestJoinsTheQueue := by
  refine fun tag group hash s => ⟨fun serve room => ?_, fun low => exec_lookupRequest_low _ (mt s.ready_iff.1 low)⟩
  rw [exec_lookupRequest_ready _ (s.ready_iff.2 ⟨serve, room⟩), requestOf_fields]
  rfl

/-! ### Drops -/

/-- The lowest of an ascending set leaves it. -/
theorem removeAsc_head {n : Nat} {x : Fin n} {rest : List (Fin n)} (below : ∀ y ∈ rest, x < y) : removeAsc x (x :: rest) = rest := by
  rw [removeAsc, List.filter_cons_of_neg (by simp), List.filter_eq_self.2 fun y mem => by simpa using (below y mem).ne']

/-- The command that emits a message. -/
def Message.command : Message → Instr
  | .answer _ _ => .answer
  | .dropUplink _ => .dropUplink
  | .dropGroup _ => .dropGroup
  | .dropAll => .dropAll

/-- What the channel offers is what the take of the arbiter's choice emits (R129, R178). -/
theorem State.offered_some {m : Message} (offers : s.offered = some m) :
    (s.taking s.channelChoice).lookup.emitted = some m ∧ s.channelChoice.command = some m.command := by
  unfold State.offered at offers
  cases choice : s.channelChoice with
  | answer q =>
    rw [choice] at offers
    obtain rfl := Option.some.inj offers
    exact ⟨State.answering_emitted q s, rfl⟩
  | nothing => rw [choice] at offers; cases offers
  | _ =>
    rw [choice] at offers
    obtain rfl := Option.some.inj offers
    exact ⟨rfl, rfl⟩

theorem State.answerValid_iff (s : State) : s.answerValid = true ↔ s.channelChoice ≠ .nothing := by
  unfold State.answerValid State.offered
  cases s.channelChoice <;> simp

/-- Settles O42: the words field by field, the valid line and the takes by the arbiter's choice, and each drop the head of its set. -/
theorem dropsLeaveTheirSets : Obligations.DropsLeaveTheirSets := by
  refine ⟨fun u g => ⟨?_, ?_, rfl⟩, fun s => ?_, fun s m offers => ?_, fun s serve => ⟨fun all => ?_,
    fun u rest law all uplinks => ?_, fun g rest law all uplinks groups turn => ?_⟩⟩
  · simp only [Message.word, fields_toNat, uplinkBits_toNat]
    rfl
  · simp only [Message.word, fields_toNat, BitVec.toNat_ofFin]
    rfl
  · rw [s.answerValid_iff, Ne, s.channelChoice_eq_nothing, not_not]
  · obtain ⟨emitted, kind⟩ := State.offered_some offers
    cases m <;> exact ⟨_, exec_take_choice rfl (by simp) kind, emitted⟩
  · exact exec_take_choice (State.channelChoice_dropAll serve all) (by simp) rfl
  · obtain ⟨below, -⟩ := List.pairwise_cons.1 (uplinks ▸ law.uplinks)
    have run := exec_take_choice (State.channelChoice_dropUplink serve all uplinks) (by simp) rfl
    rw [State.taking, State.droppingUplink, uplinks, removeAsc_head below] at run
    exact ⟨below, run⟩
  · obtain ⟨below, -⟩ := List.pairwise_cons.1 (groups ▸ law.groups)
    have run := exec_take_choice (State.channelChoice_dropGroup serve all uplinks groups turn) (by simp) rfl
    rw [State.taking, State.droppingGroup, groups, removeAsc_head below] at run
    exact ⟨below, run⟩

end Sys2Proof.Machine
end

section
/-! The records of READ_JOURNAL (R153, R159, R164, R181, sections 12.1 and 12.6): the 16 bytes of a record by the numbers of its fields, and
a run of records one after another. -/

namespace Sys2Proof.Machine

/-! ### The fields of a record -/

/-- Kind of subject, spare bits and number (section 12.6). -/
theorem subject_word (kind : BitVec 2) (spare : BitVec 4) {n : Nat} (inField : n < 1024) :
    kind ++ spare ++ BitVec.ofNat 10 n = BitVec.ofNat 16 (kind.toNat * 2 ^ 14 + 2 ^ 10 * spare.toNat + n) :=
  BitVec.eq_of_toNat_eq (by
    have := kind.isLt
    have := spare.isLt
    simp only [fields_toNat, BitVec.toNat_ofNat]
    omega)

/-- Spare bits, reason and state of an entry (R181). -/
theorem detail_word (spare : BitVec 10) (reason : BitVec 4) (state : BitVec 2) :
    spare ++ reason ++ state = BitVec.ofNat 16 (64 * spare.toNat + 4 * reason.toNat + state.toNat) :=
  BitVec.eq_of_toNat_eq (by
    have := spare.isLt
    have := reason.isLt
    have := state.isLt
    simp only [fields_toNat, BitVec.toNat_ofNat]
    omega)

/-- The detail words of a kind that has one (R181). -/
theorem firstWord_eq {w : BitVec 16} {n : Nat} (word : w = BitVec.ofNat 16 n) :
    [w, 0#16, 0#16, 0#16] = [n, 0, 0, 0].map (BitVec.ofNat 16) := by
  rw [word]
  rfl

/-- A word whose bits lie below bit `i`, with bit `i` set. -/
theorem or_one_shift_toNat (w : BitVec 12) (i : Fin 12) (low : w.toNat < 2 ^ i.val) :
    (w ||| (1#12 <<< i.val)).toNat = w.toNat + 2 ^ i.val := by
  have bit : (1#12 <<< i.val).toNat = 2 ^ i.val := by
    rw [BitVec.toNat_shiftLeft, BitVec.toNat_ofNat, Nat.one_mod_eq_one.2 (by decide), Nat.one_shiftLeft,
      Nat.mod_eq_of_lt (Nat.pow_lt_pow_right (by decide) i.isLt)]
  have sum := Nat.two_pow_add_eq_or_of_lt low 1
  rw [Nat.mul_one] at sum
  rw [BitVec.toNat_or, bit, Nat.or_comm, ← sum, Nat.add_comm]

/-- The marks set one by one in ascending order add their powers of two. -/
theorem foldl_marks_toNat (m : Vector Bool 12) (l : List (Fin 12)) (w : BitVec 12) (ascending : l.Pairwise (· < ·))
    (low : ∀ i ∈ l, w.toNat < 2 ^ i.val) :
    (l.foldl (fun w i => if m[i] then w ||| (1#12 <<< i.val) else w) w).toNat =
      w.toNat + (l.map fun i => if m[i] = true then 2 ^ i.val else 0).sum := by
  induction l generalizing w with
  | nil => rfl
  | cons i l ih =>
    obtain ⟨above, ascending⟩ := List.pairwise_cons.1 ascending
    have lowest := low i List.mem_cons_self
    rw [List.foldl_cons, List.map_cons, List.sum_cons, ← Nat.add_assoc]
    by_cases mark : m[i] = true
    · have added := or_one_shift_toNat w i lowest
      rw [if_pos mark, if_pos mark, ← added]
      refine ih _ ascending fun j mem => ?_
      have : 2 ^ (i.val + 1) ≤ 2 ^ j.val := Nat.pow_le_pow_right (by decide) (above j mem)
      rw [added]
      omega
    · rw [if_neg mark, if_neg mark]
      exact ih w ascending fun j mem => low j (List.mem_cons_of_mem i mem)

/-- Word 0 of CONFIG_CLAMPED as a number (R180, R181). -/
theorem marksWord_eq (spare : BitVec 4) (m : Vector Bool 12) : marksWord spare m = BitVec.ofNat 16
    (2 ^ 12 * spare.toNat + ((List.finRange 12).map fun i : Fin 12 => if m[i] = true then 2 ^ i.val else 0).sum) := by
  have marks := foldl_marks_toNat m (List.finRange 12) 0#12 (List.pairwise_lt_finRange 12) fun i _ => Nat.two_pow_pos i.val
  rw [BitVec.toNat_ofNat, Nat.zero_mod, Nat.zero_add] at marks
  rw [← marks]
  refine BitVec.eq_of_toNat_eq ?_
  rw [marksWord, fields_toNat, BitVec.toNat_ofNat, Nat.mod_eq_of_lt] <;> omega

/-! ### A record -/

theorem JournalBody.words_length (spare : BitVec 10) (b : JournalBody) : (b.words spare).length = 4 := by cases b <;> rfl

theorem JournalRecord.bytes_length (f0 f1 f2 : Byte) (r : JournalRecord) : (r.bytes f0 f1 f2).length = 16 := by
  have words : ((r.body.words (f1 ++ f2.extractLsb' 0 2)).flatMap bytesOf).length = 4 * 2 := by
    simp [List.length_flatMap, bytesOf, JournalBody.words_length]
  rw [JournalRecord.bytes, List.length_append, words]
  rfl

/-- The 16 bytes by the numbers of the subject and of the detail words (section 12.6). -/
theorem JournalRecord.bytes_eq (f0 f1 f2 : Byte) (time : BitVec 32) (b : JournalBody) {kind : Byte} {subject : Nat} {words : List Nat}
    (hkind : b.code = kind) (hsubject : b.subject (f0.extractLsb' 0 4) = BitVec.ofNat 16 subject)
    (hwords : b.words (f1 ++ f2.extractLsb' 0 2) = words.map (BitVec.ofNat 16)) : (⟨b, time⟩ : JournalRecord).bytes f0 f1 f2 =
      kind :: [BitVec.ofNat 8 (subject / 256), BitVec.ofNat 8 subject] ++ [0#8] ++
        [time.extractLsb' 24 8, time.extractLsb' 16 8, time.extractLsb' 8 8, time.extractLsb' 0 8] ++
        words.flatMap fun n => [BitVec.ofNat 8 (n / 256), BitVec.ofNat 8 n] := by
  subst hkind
  rw [JournalRecord.bytes, hsubject, hwords, bytesOf_ofNat, List.flatMap_map, funext bytesOf_ofNat]
  rfl

/-! ### A run of records -/

section

variable (s : State)

theorem State.recordBytes_length (n : Nat) (l : List JournalRecord) : (s.recordBytes n l).length = 16 * l.length := by
  induction l generalizing n with
  | nil => rfl
  | cons r rest ih =>
    rw [State.recordBytes, List.length_append, JournalRecord.bytes_length, ih, List.length_cons]
    omega

/-- The k-th 16 bytes are those of the k-th record. -/
theorem State.recordBytes_getElem (n k : Nat) (l : List JournalRecord) (r : JournalRecord) (found : l[k]? = some r) :
    ∃ f0 f1 f2 : Byte, ((s.recordBytes n l).drop (16 * k)).take 16 = r.bytes f0 f1 f2 := by
  induction l generalizing n k with
  | nil => cases found
  | cons first rest ih =>
    rw [State.recordBytes]
    have length := first.bytes_length (s.free n) (s.free (n + 1)) (s.free (n + 2))
    cases k with
    | zero =>
      cases found
      exact ⟨_, _, _, List.take_left' length⟩
    | succ k =>
      rw [Nat.mul_succ, Nat.add_comm, ← List.drop_drop, List.drop_left' length]
      exact ih (n + 3) k found

end

/-- Settles O47: the run of records taken from the front of the ring, and each record's bytes by the numbers of its fields. -/
theorem readJournalDeliversTheOldest : Obligations.ReadJournalDeliversTheOldest := by
  refine ⟨fun n s takes running => ?_, fun f0 f1 f2 time b => ?_⟩
  · intro count bytes
    refine ⟨congrArg Host.Outcome.next (State.takeCommand_running _ s takes running), ?_, fun k r below found => ?_⟩
    · rw [State.recordBytes_length, List.length_take_of_le (Nat.min_le_right _ _)]
    · exact s.recordBytes_getElem 0 k _ r (by rw [List.getElem?_take_of_lt below, found])
  · intro two kind
    refine ⟨(f0.extractLsb' 0 4).toNat, (f1 ++ f2.extractLsb' 0 2).toNat, ((f1 ++ f2.extractLsb' 0 2).extractLsb' 0 4).toNat,
      BitVec.isLt _, BitVec.isLt _, BitVec.isLt _, ?_⟩
    intro subject words
    refine JournalRecord.bytes_eq f0 f1 f2 time b (by cases b <;> rfl) ?_ ?_
    · cases b with
      | viewChange u detail => exact subject_word 1#2 _ (by omega)
      | cardSeen c | cardLost c | cardWithdrawn c | cardReturned c | clash c => exact subject_word 2#2 _ (by omega)
      | groupMode g mode => exact subject_word 3#2 _ g.isLt
      | _ => rfl
    · cases b with
      | viewChange u detail =>
        cases detail with
        | admitted => exact firstWord_eq (detail_word _ 0#4 0#2)
        | settling => exact firstWord_eq (detail_word _ 0#4 1#2)
        | dark reason => cases reason <;> exact firstWord_eq (detail_word _ _ 2#2)
      | groupMode g mode => cases mode <;> rfl
      | configDefaulted cause => cases cause <;> rfl
      | configClamped marks => exact firstWord_eq (marksWord_eq _ marks)
      | joined start n => cases start <;> rfl
      | _ => rfl

end Sys2Proof.Machine
end

section
/-! The bytes of a table port command (R142, R144, section 12.4): a command byte with the arguments it takes, or a byte that names no
command. -/

namespace Sys2Proof

/-- A byte that is no command byte takes no arguments, since every byte that takes some is one (R144). -/
theorem argumentCount_unknown {b : Byte} (unknown : b ∉ Config.commandBytes) : argumentCount b = none := by
  have takes0 : [0x01#8, 0x10#8, 0x23#8, 0x25#8, 0x30#8, 0x31#8, 0x3F#8] ⊆ Config.commandBytes := by decide
  have takes1 : [0x22#8, 0x24#8] ⊆ Config.commandBytes := by decide
  have takes2 : [0x11#8, 0x12#8, 0x18#8, 0x19#8, 0x20#8, 0x21#8] ⊆ Config.commandBytes := by decide
  rw [argumentCount, if_neg fun mem => unknown (takes0 mem), if_neg fun mem => unknown (takes1 mem),
    if_neg fun mem => unknown (takes2 mem)]

theorem not_mem_commandBytes {b : Byte} (wf : WellFormed (.unknownCommand b) = true) : b ∉ Config.commandBytes := by
  simpa [WellFormed] using wf

/-- A table port command is a byte that names none, or a command byte with the arguments that it takes, whatever follows them (section
12.4). -/
theorem encodeTransaction_cases {c : Instr} {bytes : List Byte} (wf : WellFormed c = true) (coded : encodeTransaction c = some bytes) :
    (∃ b, c = .unknownCommand b ∧ bytes = [b] ∧ argumentCount b = none) ∨
    ∃ cmd args, bytes = cmd :: args ∧ argumentCount cmd = some args.length ∧
      ∀ extra, namedCommand cmd ((args ++ extra).getD 0 0#8) ((args ++ extra).getD 1 0#8) = some c := by
  cases c with
  | unknownCommand b =>
    cases coded
    exact .inl ⟨b, rfl, rfl, argumentCount_unknown (not_mem_commandBytes wf)⟩
  | status | stageClear | stageMember | stageOptions | commit | release | readGroup | readSpread | readView | readCards | readJournal
  | readCounters | drain | undrain | warmReset =>
    cases coded
    exact .inr ⟨_, _, rfl, rfl, fun _ => rfl⟩
  | _ => cases coded

/-- Settles O51: the arguments are there with whatever follows them, and cut short one of them, or the command byte, is missing. -/
theorem transactionBytesAreTakenAsTheCommand : Obligations.TransactionBytesAreTakenAsTheCommand := by
  intro c bytes extra n wf coded
  obtain ⟨b, rfl, rfl, noArguments⟩ | ⟨cmd, args, rfl, count, named⟩ := encodeTransaction_cases wf coded
  · refine ⟨?_, fun short => ?_⟩
    · rw [List.singleton_append, decodeTransaction, noArguments]
    · rw [Nat.lt_one_iff.1 short]
      rfl
  · refine ⟨?_, fun short => ?_⟩
    · have enough : ¬ (args ++ extra).length < args.length := by simp
      rw [List.cons_append, decodeTransaction, count]
      exact (if_neg enough).trans (named extra)
    · cases n with
      | zero => rfl
      | succ n =>
        have missing : (args.take n).length < args.length := by simpa using Nat.lt_of_succ_lt_succ short
        rw [List.take_succ_cons, decodeTransaction, count]
        exact if_pos missing

end Sys2Proof
end

section
/-! The staging commands (R145 to R147, R179): the fields of their argument bytes, and what they make of the staging record. -/

namespace Sys2Proof.Machine

/-! ### The argument bytes (section 12.4) -/

theorem placeArg_fields (place : MemberIdx) (weight : BitVec 5) : placeArg (BitVec.ofFin (w := 3) place ++ weight) = place :=
  congrArg BitVec.toFin (extractLsb'_past 0 BitVec.extractLsb'_eq_self)

theorem weightArg_fields (place : BitVec 3) (weight : BitVec 5) : weightArg (place ++ weight) = weight.toNat :=
  congrArg BitVec.toNat extractLsb'_low

theorem minLiveArg_fields (above : BitVec 4) (minLive : BitVec 4) : minLiveArg (above ++ minLive) = minLive.toNat :=
  congrArg BitVec.toNat extractLsb'_low

theorem uplinkArg_fields (mark : BitVec 1) (u : Uplink) : uplinkArg (mark ++ BitVec.ofFin (w := 7) u) = u :=
  congrArg BitVec.toFin extractLsb'_low

/-- The highest bit of a word whose highest field is one mark. -/
theorem highBit_fields {w : Nat} (mark : Bool) (low : BitVec w) : (BitVec.ofBool mark ++ low).getLsbD w = mark := by
  rw [BitVec.getLsbD_append, if_neg (lt_irrefl w), Nat.sub_self]
  cases mark <;> rfl

theorem tierArg_fields (tier : Tier) (low : BitVec 7) : tierArg (BitVec.ofBool (tier == .t1) ++ low) = tier := by
  rw [tierArg, highBit_fields]
  cases tier <;> rfl

theorem escapeArg_fields (present : Bool) (u : Uplink) :
    escapeArg (BitVec.ofBool present ++ BitVec.ofFin (w := 7) u) = if present = true then some u else none := by
  rw [escapeArg, highBit_fields, uplinkArg_fields]

/-- The first byte of STAGE_OPTIONS has the non-revertive mark highest. -/
theorem highBit_options (mark : Bool) (ignored : BitVec 3) (minLive : BitVec 4) :
    (BitVec.ofBool mark ++ ignored ++ minLive).getLsbD 7 = mark :=
  BitVec.getLsbD_append.trans (highBit_fields mark ignored)

/-! ### The staging record -/

/-- Settles O44: each command is taken, and its argument bytes are read field by field. -/
theorem stagingCommandsSetTheStagingRecord : Obligations.StagingCommandsSetTheStagingRecord := by
  intro s takes running ok
  refine ⟨congrArg Host.Outcome.next (State.takeCommand_running _ s takes running), fun place weight tier u => ?_,
    fun nonRevertive present ignored minLive u => ?_⟩
  · refine (congrArg Host.Outcome.next (State.takeCommand_running _ s takes running)).trans ?_
    rw [placeArg_fields, seatArg, weightArg_fields, uplinkArg_fields, tierArg_fields]
    rfl
  · refine (congrArg Host.Outcome.next (State.takeCommand_running _ s takes running)).trans ?_
    rw [minLiveArg_fields, escapeArg_fields, highBit_options]
    rfl

end Sys2Proof.Machine
end

section
/-! What the table port does not take, or refuses (R142 to R144, R155, R168): every command of the port comes in through
`State.takeCommand`, under the phases that it is taken in. -/

namespace Sys2Proof.Machine

/-! ### The taking of a command -/

/-- The phase allows the command: any for STATUS and for a byte that names none, SERVE for DRAIN, and for the others any from the end of
loading on (R143, R144, R154, R155). -/
def State.phaseAllows (c : Instr) (s : State) : Bool :=
  match c with
  | .status => true
  | .unknownCommand _ => true
  | .drain => s.isServe
  | _ => !s.isLoading

theorem exec_unknownCommand {b : Byte} (wf : WellFormed (.unknownCommand b) = true) (s : State) :
    exec (.unknownCommand b) s = .next (s.takeCommand true fun t => t.respond .unknownCommand []) := by
  have unknown : ¬ Config.commandBytes.contains b = true := by simpa using not_mem_commandBytes wf
  exact congrArg Host.Outcome.next (if_neg unknown)

/-- Every command of the port comes in on it under the phases that allow it. -/
theorem exec_portCommand {c : Instr} {bytes : List Byte} (wf : WellFormed c = true) (coded : encodeTransaction c = some bytes)
    (s : State) : ∃ effect, exec c s = .next (s.takeCommand (s.phaseAllows c) effect) := by
  cases c with
  | unknownCommand b => exact ⟨_, exec_unknownCommand wf s⟩
  | status | stageClear | stageMember | stageOptions | commit | release | readGroup | readSpread | readView | readCards | readJournal
  | readCounters | drain | undrain | warmReset => exact ⟨_, rfl⟩
  | _ => cases coded

section

variable (inPhase : Bool) (effect : State → State) (s : State)

/-- While a reset line is asserted nothing is taken (R142). -/
theorem State.takeCommand_held (held : s.pins.resetN = true ∨ s.pins.warmN = true) :
    s.takeCommand inPhase effect = { s with port := { s.port with transaction := .ignored } } :=
  if_pos (by simpa using held)

/-- A transaction carries one command, and an ignored chip select none (R142). -/
theorem State.takeCommand_spent (resetN : s.pins.resetN = false) (warmN : s.pins.warmN = false)
    (spent : s.port.transaction = .taken ∨ s.port.transaction = .ignored) : s.takeCommand inPhase effect = s := by
  unfold State.takeCommand
  rcases spent with e | e <;> simp [resetN, warmN, e]

/-- A command that the phase does not allow is answered NOT_READY (R143). -/
theorem State.takeCommand_refused (takes : s.TakesCommand) : s.takeCommand false effect = s.responding [0x01#8] := by
  obtain ⟨resetN, warmN, transaction⟩ := takes
  unfold State.takeCommand
  rcases transaction with e | e <;> simp [resetN, warmN, e] <;> rfl

end

/-! ### The phases -/

theorem State.isServe_false {s : State} (other : s.start.phase ≠ .serve) : s.isServe = false :=
  Bool.eq_false_iff.2 (mt s.isServe_iff.1 other)

/-- In LOADING STATUS and bytes that name no command alone are taken (R143). -/
theorem State.phaseAllows_loading {c : Instr} {s : State} (loading : s.isLoading = true) (noStatus : c ≠ .status)
    (noUnknown : ∀ b, c ≠ .unknownCommand b) : s.phaseAllows c = false := by
  have notServe : s.isServe = false := Bool.eq_false_iff.2 fun serve => by simp [State.running_of_isServe serve] at loading
  cases c with
  | status => exact absurd rfl noStatus
  | unknownCommand b => exact absurd rfl (noUnknown b)
  | drain => exact notServe
  | _ => simp [State.phaseAllows, loading]

/-- Settles O50: every command of the port comes in through `State.takeCommand`, and these are its ways out without the effect. -/
theorem refusedCommandsChangeNothing : Obligations.RefusedCommandsChangeNothing := by
  intro c bytes s wf coded
  obtain ⟨effect, run⟩ := exec_portCommand wf coded s
  have refused : s.TakesCommand → s.phaseAllows c = false → exec c s = .next (s.responding [0x01#8]) := fun takes phase => by
    rw [run, phase, State.takeCommand_refused effect s takes]
  refine ⟨fun held => ?_, fun resetN warmN spent => ?_, fun takes loading noStatus noUnknown => ?_, ?_, ?_⟩
  · rw [run, State.takeCommand_held _ effect s held]
  · rw [run, State.takeCommand_spent _ effect s resetN warmN spent]
  · exact refused takes (State.phaseAllows_loading loading noStatus noUnknown)
  · rintro takes rfl other
    exact refused takes (State.isServe_false other)
  · rintro takes ⟨b, rfl⟩
    exact (exec_unknownCommand wf s).trans (congrArg Host.Outcome.next (State.takeCommand_taken _ s takes))

end Sys2Proof.Machine
end

section
/-! What one append makes of the ring, what every command can make of it, and from both the ring's law (R158 to R165, R167). -/

namespace Sys2Proof.Machine

/-! ### One append (R160 to R163) -/

section

variable {j : Journal}

/-- A full ring has a committed record to discard, as fewer than 32 are held back (R163). -/
theorem Journal.Law.makeRoom_heldBack (law : j.Law) : j.makeRoom.heldBack = j.heldBack := by
  have few : j.heldBack.length < 32 := law.heldBack
  unfold Journal.makeRoom
  split
  · rfl
  · next full =>
    have full : ¬ j.committed.length + j.heldBack.length < 64 := full
    cases held : j.committed with
    | cons r rest => rfl
    | nil => rw [held, List.length_nil] at full; omega

theorem Journal.makeRoom_flag (j : Journal) : j.makeRoom.episodeOpen = j.episodeOpen := by
  unfold Journal.makeRoom
  split
  · rfl
  · split <;> rfl

/-- Within an open episode a record is held back, the 32nd commits them all, and with none open it is committed (R160 to R162). -/
theorem Journal.Law.append_heldBack (law : j.Law) (r : JournalRecord) : (j.append r).heldBack =
    if j.episodeOpen = true ∧ j.heldBack.length < 31 then j.heldBack ++ [r] else [] := by
  have few : (j.makeRoom.push r).heldBack.length < Config.forcedCommit ↔ j.heldBack.length < 31 := by
    simp only [Journal.push, law.makeRoom_heldBack, List.length_append, List.length_singleton, Config.forcedCommit]
    omega
  have flag : (j.makeRoom.push r).episodeOpen = j.episodeOpen := j.makeRoom_flag
  unfold Journal.append
  simp only [flag, few, Bool.and_eq_true, decide_eq_true_eq]
  split
  · rw [Journal.push, law.makeRoom_heldBack]
  · rfl

theorem Journal.Law.append (law : j.Law) (r : JournalRecord) : (j.append r).Law where
  size := (j.append_records r law.size).2.2
  heldBack := by
    rw [law.append_heldBack]
    split
    · next short =>
      simp only [List.length_append, List.length_singleton, Config.forcedCommit]
      omega
    · decide
  closed := fun closed => by
    rw [Journal.append_flag] at closed
    simp [law.append_heldBack, closed]

/-- The ring after an append: the records held and the new one, without the oldest of 64 (R163). -/
theorem Journal.append_records_eq (size : j.size ≤ 64) (r : JournalRecord) : (j.append r).records =
    (if j.size = 64 then j.records.tail else j.records) ++ [r] := by
  have held : j.records.length = j.size := by simp [Journal.records, Journal.size]
  rw [(j.append_records r size).1, List.drop_append_of_le_length (by omega), held]
  split
  · next full => rw [full, List.drop_one]
  · next room => rw [show j.size + 1 - 64 = 0 by omega, List.drop_zero]

end

/-! ### What a command can make of the ring -/

/-- What the commands make of the ring, in one move or several: records appended (R158), an episode opened (R122), the oldest records
delivered (R164), all committed as an episode closes or at a warm reset (R161, R167), and the cold reset (R166). -/
inductive Journal.Moves : Journal → Journal → Prop
  | kept (j : Journal) : Moves j j
  | append (r : JournalRecord) (j : Journal) : Moves j (j.append r)
  | opening (opens : Bool) (j : Journal) : Moves j { j with episodeOpen := j.episodeOpen || opens }
  | deliver (n : Nat) (j : Journal) : Moves j (j.deliver n)
  | close (j : Journal) : Moves j { j with episodeOpen := false }.commitAll
  | cold (j : Journal) : Moves j Journal.cold
  | trans (j k l : Journal) (first : Moves j k) (second : Moves k l) : Moves j l

theorem Journal.Moves.law {j k : Journal} (h : j.Moves k) : j.Law → k.Law := by
  induction h with
  | kept => exact id
  | append r j => exact fun law => law.append r
  | opening opens j => exact fun law => ⟨law.size, law.heldBack, fun closed => law.closed (Bool.or_eq_false_iff.1 closed).1⟩
  | deliver n j =>
    refine fun law => ⟨?_, law.heldBack, law.closed⟩
    have size := law.size
    simp only [Journal.size, Journal.deliver, List.length_drop] at size ⊢
    omega
  | close j =>
    refine fun law => ⟨?_, Nat.zero_lt_succ _, fun _ => rfl⟩
    simpa [Journal.size, Journal.commitAll] using law.size
  | cold => exact fun _ => reset_journalLaw
  | trans j k l _ _ first second => exact second ∘ first

/-- From `s` to `t` the ring moves as commands make it move. -/
def State.JournalMoves (s t : State) : Prop := s.journal.Moves t.journal

variable {s t r : State}

/-! ### Operations that leave the ring -/

namespace State

variable (s)

@[simp] theorem framingError_journal (aborted : Bool) : (s.framingError aborted).journal = s.journal := by cases aborted <;> rfl
@[simp] theorem crcError_journal (aborted : Bool) : (s.crcError aborted).journal = s.journal := by cases aborted <;> rfl

@[simp] theorem raiseDue_journal (f : FrameClass) : (s.raiseDue f).journal = s.journal := rfl
@[simp] theorem isolationEnd_journal : s.isolationEnd.journal = s.journal := rfl
@[simp] theorem respond_journal (c : StatusCode) (data : List Byte) : (s.respond c data).journal = s.journal := rfl
@[simp] theorem setFramer_journal (f : Framer) : (s.setFramer f).journal = s.journal := rfl

@[simp] theorem startEdge_journal (idle : Nat) : (s.startEdge idle).journal = s.journal := by
  rcases s.startEdge_cases idle with ⟨-, e⟩ | ⟨-, -, e⟩ | ⟨-, -, e⟩ <;> rw [e] <;> rfl

@[simp] theorem discardReception_journal (receiving : Bool) : (s.discardReception receiving).journal = s.journal := by
  unfold discardReception
  split
  · exact framingError_journal s _
  · split
    · exact framingError_journal s _
    · rfl
  · rfl
  · rfl

@[simp] theorem beginLoad_journal (straps : CardId) : (s.beginLoad straps).journal = s.journal := by
  unfold beginLoad
  split <;> rfl

@[simp] theorem completeJob_journal : s.completeJob.journal = s.journal := by
  rw [completeJob_eq]

@[simp] theorem walkOn_journal (job : Job) (position : Option GroupNo) : (s.walkOn job position).journal = s.journal := by
  unfold walkOn
  split
  · exact completeJob_journal s
  · rfl

@[simp] theorem boundary_journal (job : Job) (position : GroupNo) : (s.boundary job position).journal = s.journal := by
  obtain ⟨e, eq, -⟩ := s.boundary_spec job position
  rw [eq, withEngine_journal]

@[simp] theorem begin_journal (taken : Taken) : (s.begin taken).journal = s.journal := by
  cases taken with
  | urgent w => exact walkOn_journal _ _ _
  | sweep e => exact walkOn_journal _ _ _
  | calm w => exact walkOn_journal _ _ _
  | build g =>
    unfold begin beginBuild
    dsimp only
    split <;> rfl

end State

/-! ### Operations that move the ring -/

namespace State.JournalMoves

theorem of_eq (h : t.journal = s.journal) : s.JournalMoves t := by
  unfold State.JournalMoves
  rw [h]
  exact .kept _

theorem trans (first : s.JournalMoves t) (second : t.JournalMoves r) : s.JournalMoves r := Journal.Moves.trans _ _ _ first second

/-- What comes before a move leaves the ring. -/
theorem before (h : t.journal = s.journal) (m : t.JournalMoves r) : s.JournalMoves r := trans (of_eq h) m

/-- What comes after a move leaves the ring. -/
theorem after (m : s.JournalMoves t) (h : r.journal = t.journal) : s.JournalMoves r := m.trans (of_eq h)

theorem append (b : JournalBody) (m : s.JournalMoves t) : s.JournalMoves (t.append b) := m.trans (Journal.Moves.append _ _)

/-! #### The notices and the events of the view -/

theorem noticeLeft (u : Uplink) (s : State) : s.JournalMoves (s.noticeLeft u) := by
  rw [State.noticeLeft_eq]
  exact Journal.Moves.opening _ _

theorem noticeEntered (u : Uplink) (s : State) : s.JournalMoves (s.noticeEntered u) := by
  rw [State.noticeEntered_eq]
  exact Journal.Moves.opening _ _

theorem handLeft (u : Uplink) (d : EntryDetail) (s : State) : s.JournalMoves (s.handLeft u d) := by
  have drop : (s.orderMade.putUplinkDrop u).journal = s.journal := rfl
  unfold State.handLeft
  dsimp only
  split
  · exact append _ (before drop (noticeLeft u _))
  · exact (append _ (of_eq drop)).trans (noticeLeft u _)

theorem handEntered (u : Uplink) (s : State) : s.JournalMoves (s.handEntered u) := by
  have order : s.orderMade.journal = s.journal := rfl
  unfold State.handEntered
  dsimp only
  split
  · exact append _ (before order (noticeEntered u _))
  · exact (append _ (of_eq order)).trans (noticeEntered u _)

theorem handChange (u : Uplink) (old new : EntryState) (s : State) : s.JournalMoves (s.handChange u old new) := by
  unfold State.handChange
  split
  · exact of_eq rfl
  · split
    · exact handLeft u _ s
    · split
      · exact handEntered u s
      · exact append _ (of_eq rfl)

theorem moveEntry (u : Uplink) (e : Entry) (s : State) : s.JournalMoves (s.moveEntry u e) :=
  before (s.withView_journal _) (handChange u _ _ _)

theorem refindAll (us : List Uplink) (s : State) : s.JournalMoves (s.refindAll us) := by
  induction us generalizing s with
  | nil => exact of_eq rfl
  | cons u us ih => exact (moveEntry u _ s).trans (ih _)

theorem handStatus (p : Port) (old : PortStatus) (s : State) : s.JournalMoves (s.handStatus p old) := by
  unfold State.handStatus
  split
  · exact of_eq rfl
  · refine before ?_ (moveEntry _ _ _)
    split <;> rfl

theorem decayPort (p : Port) (s : State) : s.JournalMoves (s.decayPort p) := by
  rw [State.decayPort_eq]
  exact before (t := s.setMonitor p _) rfl (handStatus _ _ _)

theorem foldl_decayPort (ps : List Port) (s : State) : s.JournalMoves (ps.foldl State.decayPort s) := by
  induction ps generalizing s with
  | nil => exact of_eq rfl
  | cons p ps ih => exact (decayPort p s).trans (ih _)

theorem loseCard (c : CardId) (s : State) : s.JournalMoves (s.loseCard c) :=
  (append (.cardLost c) (t := s.setCard c _) (of_eq rfl)).trans (refindAll _ _)

theorem appendIf (b : Option JournalBody) (s : State) : s.JournalMoves (s.appendIf b) := by
  cases b with
  | none => exact of_eq rfl
  | some x => exact append x (of_eq rfl)

theorem applyFrame (c : CardId) (cls : FrameClass) (st : Statuses) (s : State) : s.JournalMoves (s.applyFrame c cls st) :=
  (before (t := s.setCard c _) rfl (appendIf _ _)).trans (refindAll _ _)

theorem isolationStart (s : State) : s.JournalMoves s.isolationStart := by
  rw [State.isolationStart_eq]
  split
  · exact before (t := s.isolationMarked) rfl (refindAll _ _)
  · exact of_eq rfl

theorem setDraining (b : Bool) (s : State) : s.JournalMoves (s.setDraining b) :=
  before (s.withView_journal _) (refindAll _ _)

/-! #### The notice bus -/

theorem dispose (card : CardId) (cls : FrameClass) (st : Statuses) (s : State) : s.JournalMoves (s.dispose card cls st) := by
  unfold State.dispose
  dsimp only
  split
  · split
    · exact append _ (of_eq rfl)
    · exact of_eq rfl
  · exact before (s.withBus_journal _) (applyFrame card cls st _)

theorem judge (aborted : Bool) (bits : BitVec 48) (s : State) : s.JournalMoves (s.judge aborted bits) := by
  unfold State.judge
  split
  · exact of_eq (s.framingError_journal aborted)
  · split
    · exact of_eq (s.crcError_journal aborted)
    · exact dispose _ _ _ _

theorem hear (aborted : Bool) (taken : List Bool) (s : State) : s.JournalMoves (s.hear aborted taken) := by
  rcases s.hear_cases aborted taken with ⟨-, e⟩ | ⟨-, -, e⟩ | ⟨-, -, e⟩ <;> rw [e]
  · exact of_eq (State.framingError_journal _ _)
  · exact of_eq rfl
  · exact before (s.setFramer_journal _) (judge _ _ _)

theorem countAbort (cls : FrameClass) (s : State) : s.JournalMoves (s.countAbort cls) := by
  unfold State.countAbort
  dsimp only
  split
  · exact append _ (of_eq rfl)
  · exact of_eq rfl

theorem abortFrame (cls : FrameClass) (taken : List Bool) (s : State) : s.JournalMoves (s.abortFrame cls taken) :=
  (countAbort cls s).trans (hear _ _ _)

theorem readBack (cls : FrameClass) (st : Statuses) (sent : Nat) (b : Bool) (s : State) :
    s.JournalMoves (s.readBack cls st sent b) := by
  cases own : (lineBits cls s.start.cardId st)[sent]? with
  | none => exact of_eq (by simp [State.readBack, own])
  | some x =>
    rcases s.readBack_cases cls st sent x b own with ⟨-, -, e⟩ | ⟨-, -, e⟩ | ⟨-, -, e⟩ | ⟨-, -, e⟩ <;> rw [e]
    · exact of_eq rfl
    · exact of_eq rfl
    · exact of_eq rfl
    · exact abortFrame _ _ _

theorem takeBit (b : Bool) (s : State) : s.JournalMoves (s.takeBit b) := by
  unfold State.takeBit
  split
  · exact of_eq rfl
  · exact of_eq (by split; exacts [rfl, s.startEdge_journal _])
  · exact hear _ _ _
  · exact readBack _ _ _ _ _

theorem takeBits (bits : List Bool) (s : State) : s.JournalMoves (s.takeBits bits) := by
  induction bits generalizing s with
  | nil => exact of_eq rfl
  | cons b bits ih => exact (takeBit b s).trans (ih _)

theorem enterFault (receiving : Bool) (s : State) : s.JournalMoves (s.enterFault receiving) :=
  (append _ (of_eq ((State.withBus_journal _ _).trans (s.discardReception_journal receiving)))).trans (isolationStart _)

/-! #### The Repair Engine, the start and the table port -/

theorem handOutcome (g : GroupNo) (old new : Mode) (moved : Nat) (s : State) : s.JournalMoves (s.handOutcome g old new moved) := by
  rw [State.handOutcome_eq]
  unfold State.JournalMoves
  dsimp only
  split
  · exact .kept _
  · exact .append _ _

theorem reconcileGroup (g : GroupNo) (snapshot : List Uplink) (s : State) : s.JournalMoves (s.reconcileGroup g snapshot) := by
  unfold State.reconcileGroup
  split
  · exact of_eq rfl
  · exact before (s.withStore_journal _) (handOutcome _ _ _ _ _)

theorem installGroup (g : GroupNo) (r : Record) (snapshot : List Uplink) (s : State) :
    s.JournalMoves (s.installGroup g r snapshot) :=
  before (s.withStore_journal _) (handOutcome _ _ _ _ _)

theorem releaseGroup (g : GroupNo) (s : State) : s.JournalMoves (s.releaseGroup g) :=
  before (s.withStore_journal _) (handOutcome _ _ _ _ _)

/-- EPISODE_END is appended, and the close commits all (R124, R161). -/
theorem closeEpisode (e : Episode) (s : State) : s.JournalMoves (s.closeEpisode e) :=
  (append (e.endRecord s.clock.now) (of_eq rfl)).trans (Journal.Moves.close _)

/-- A BUILD entry made opens an episode, a replacement makes none (R110, R122). -/
theorem putPending (g : GroupNo) (k : PendingKind) (s : State) : s.JournalMoves (s.putPending g k) := by
  cases flag : s.store.pendingFlag g with
  | true =>
    rw [State.putPending_held flag]
    exact of_eq rfl
  | false =>
    rw [State.putPending_free flag]
    exact Journal.Moves.opening _ _

theorem finishLoading (c : Settings) (noted : Option JournalBody) (s : State) : s.JournalMoves (s.finishLoading c noted) := by
  rw [State.finishLoading_eq]
  unfold State.JournalMoves State.startJournal
  cases noted <;> cases s.start.kind
  · exact .kept _
  · exact .append _ _
  · exact .append _ _
  · exact .trans _ _ _ (.append _ _) (.append _ _)

/-- JOINED is appended, before or after the SWEEP opens an episode (R173, R174). -/
theorem enterServe (s : State) : s.JournalMoves s.enterServe := by
  obtain ⟨k, orders, joins, eq⟩ := s.enterServe_eq
  rw [eq]
  rcases joins with rfl | rfl
  · exact Journal.Moves.trans _ _ _ (.opening _ _) (.append _ _)
  · rw [← Journal.append_flag s.joinedRecord s.journal]
    exact Journal.Moves.trans _ _ _ (.append _ _) (.opening _ _)

/-- A command that comes in on the port moves the ring as its effect does, or not at all. -/
theorem takeCommand {inPhase : Bool} {effect : State → State} (m : s.JournalMoves (effect s)) :
    s.JournalMoves (s.takeCommand inPhase effect) := by
  rcases s.takeCommand_cases inPhase effect with ⟨-, -, e⟩ | ⟨-, -, e⟩ | ⟨-, e⟩ | ⟨-, e⟩ <;> rw [e]
  · exact m
  all_goals exact of_eq rfl

/-! #### Resets (R166, R167) -/

theorem beginLoad (straps : CardId) (m : s.JournalMoves t) : s.JournalMoves (t.beginLoad straps) :=
  m.after (t.beginLoad_journal straps)

theorem coldReset (s : State) : s.JournalMoves s.coldReset := Journal.Moves.cold _

theorem warmReset (s : State) : s.JournalMoves s.warmReset := Journal.Moves.close _

end State.JournalMoves

end Sys2Proof.Machine
end

section
/-! Every command moves the ring so, and the obligations of the Journal and of the step (R158 to R165). -/

namespace Sys2Proof.Machine

open State (JournalMoves)

variable {s t : State}

/-! ### Every command -/

theorem execFrameReceived_journalMoves (gap : Nat) (bits : List Bool) (h : execFrameReceived gap bits s = .next t) :
    s.JournalMoves t := by
  obtain rfl := Host.Outcome.next.inj h
  split
  · split
    · exact .before (s.startEdge_journal _) (.takeBits bits _)
    · exact .takeBits bits s
    · exact .takeBits bits s
    · exact .of_eq rfl
  · exact .of_eq rfl

theorem execFrameStart_journal (gap : Nat) (edge : Bool) (h : execFrameStart gap edge s = .next t) :
    t.journal = s.journal := by
  obtain rfl := Host.Outcome.next.inj h
  split
  · split
    · split
      · exact s.startEdge_journal _
      · split <;> rfl
    all_goals rfl
  · rfl

theorem execArbitrationLost_journal (h : execArbitrationLost s = .next t) : t.journal = s.journal := by
  obtain rfl := Host.Outcome.next.inj h
  split
  · dsimp only
    split <;> rfl
  all_goals rfl

theorem execAbort_journalMoves (h : execAbort s = .next t) : s.JournalMoves t := by
  obtain rfl := Host.Outcome.next.inj h
  split
  · dsimp only
    split
    · exact .abortFrame _ _ s
    · split
      · exact .abortFrame _ _ s
      · exact .of_eq rfl
  all_goals exact .of_eq rfl

theorem execFaultRecovery_journalMoves (recessive : Nat) (h : execFaultRecovery recessive s = .next t) : s.JournalMoves t := by
  obtain rfl := Host.Outcome.next.inj h
  split
  · split
    · exact .of_eq rfl
    · refine .after (.after ?_ (State.isolationEnd_journal _)) (State.raiseDue_journal _ _)
      exact .append _ (.of_eq (s.withBus_journal _))
  all_goals exact .of_eq rfl

theorem execReconcile_journalMoves (time : SnapshotTime) (h : execReconcile time s = .next t) : s.JournalMoves t := by
  obtain rfl := Host.Outcome.next.inj h
  split
  · exact .of_eq rfl
  · split
    · exact .of_eq rfl
    · exact (JournalMoves.reconcileGroup _ _ s).after (State.boundary_journal _ _ _)

theorem execInstallation_journalMoves (h : execInstallation s = .next t) : s.JournalMoves t := by
  obtain rfl := Host.Outcome.next.inj h
  split
  · exact (JournalMoves.installGroup _ _ _ s).after (State.completeJob_journal _)
  · exact (JournalMoves.releaseGroup _ s).after (State.completeJob_journal _)
  all_goals exact .of_eq rfl

theorem execSettleDeadline_journalMoves (h : execSettleDeadline s = .next t) : s.JournalMoves t := by
  obtain rfl := Host.Outcome.next.inj h
  split
  · exact .of_eq rfl
  · split
    · exact .of_eq rfl
    · split
      · exact .before (t := s.advanceTo _) rfl (.closeEpisode _ _)
      · exact .of_eq rfl

theorem takeCommand_next_journalMoves {inPhase : Bool} {effect : State → State}
    (h : Host.Outcome.next (s.takeCommand inPhase effect) = (.next t : Host.Outcome State Fault Refusal))
    (m : s.JournalMoves (effect s)) : s.JournalMoves t :=
  Host.Outcome.next.inj h ▸ m.takeCommand

theorem execCommit_journalMoves (b0 b1 : Byte) (h : execCommit b0 b1 s = .next t) : s.JournalMoves t := by
  refine takeCommand_next_journalMoves h ?_
  split
  · exact .of_eq rfl
  · split
    · exact JournalMoves.putPending _ _ s
    · exact .of_eq rfl

theorem execRelease_journalMoves (b0 b1 : Byte) (h : execRelease b0 b1 s = .next t) : s.JournalMoves t := by
  refine takeCommand_next_journalMoves h ?_
  split
  · exact JournalMoves.putPending _ _ s
  · exact .of_eq rfl

theorem execDrain_journalMoves (h : execDrain s = .next t) : s.JournalMoves t := by
  refine takeCommand_next_journalMoves h ?_
  split
  · exact .of_eq rfl
  · split
    · exact .of_eq rfl
    · exact (JournalMoves.setDraining true s).after (by simp)

theorem execUndrain_journalMoves (h : execUndrain s = .next t) : s.JournalMoves t := by
  refine takeCommand_next_journalMoves h ?_
  dsimp only
  split
  · exact (JournalMoves.setDraining false s).after (by simp)
  · exact .of_eq rfl

theorem execWarmNAsserted_journalMoves (h : execWarmNAsserted s = .next t) : s.JournalMoves t := by
  obtain rfl := Host.Outcome.next.inj h
  dsimp only
  split
  · exact .of_eq rfl
  · split
    · exact .of_eq rfl
    · exact JournalMoves.warmReset (s.withPins _)

theorem execChipSelectRelease_journalMoves (r : Deselect) (h : execChipSelectRelease r s = .next t) : s.JournalMoves t := by
  obtain rfl := Host.Outcome.next.inj h
  have again : ∀ u : State, (if r.again = true then u.selectPort else u).journal = u.journal := fun u => by split <;> rfl
  refine .after ?_ (again _)
  split
  · exact (JournalMoves.warmReset s.releasePort).beginLoad r.straps
  · exact .of_eq rfl

/-- A command that the part takes moves the ring by appends, an opening, a delivery, a close or a reset. -/
theorem exec_journalMoves (c : Instr) (h : exec c s = .next t) : s.JournalMoves t := by
  cases c with
  | lightFall p =>
    obtain rfl := Host.Outcome.next.inj h
    dsimp only
    split
    · exact .of_eq (by split <;> rfl)
    · exact .of_eq rfl
  | lightRise p =>
    obtain rfl := Host.Outcome.next.inj h
    dsimp only
    split
    · exact .of_eq rfl
    · exact .of_eq (by split <;> rfl)
  | lossTimerExpiry p | returnTimerExpiry p =>
    obtain rfl := Host.Outcome.next.inj h
    split
    · exact .before (t := (s.advanceTo _).setMonitor p _) rfl (.handStatus _ _ _)
    all_goals exact .of_eq rfl
  | decayTick =>
    obtain rfl := Host.Outcome.next.inj h
    split
    · exact .of_eq rfl
    · exact .before (State.withClock_journal _ _) (.foldl_decayPort _ _)
  | admissionDeadline u =>
    obtain rfl := Host.Outcome.next.inj h
    split
    · exact .before (t := s.advanceTo _) rfl (.moveEntry _ _ _)
    all_goals exact .of_eq rfl
  | presenceDeadline k =>
    obtain rfl := Host.Outcome.next.inj h
    split
    · exact .before (t := s.advanceTo _) rfl (.loseCard k _)
    · exact .of_eq rfl
  | frameReceived gap bits => exact execFrameReceived_journalMoves gap bits h
  | frameStart gap edge => exact .of_eq (execFrameStart_journal gap edge h)
  | arbitrationLost => exact .of_eq (execArbitrationLost_journal h)
  | abort => exact execAbort_journalMoves h
  | stuckLine stretch receiving =>
    obtain rfl := Host.Outcome.next.inj h
    split
    · exact .enterFault receiving s
    · exact .of_eq rfl
  | faultRecovery recessive => exact execFaultRecovery_journalMoves recessive h
  | arbiterTake =>
    obtain rfl := Host.Outcome.next.inj h
    split
    · exact .of_eq rfl
    · split
      · exact .of_eq (s.begin_journal _)
      · exact .of_eq rfl
  | reconcile time => exact execReconcile_journalMoves time h
  | installation => exact execInstallation_journalMoves h
  | settleDeadline => exact execSettleDeadline_journalMoves h
  | frameComplete | muteTimerExpiry | beaconTimerExpiry | lookupRequest | answer | dropUplink | dropGroup | dropAll | loadTimeout =>
    obtain rfl := Host.Outcome.next.inj h
    exact .of_eq (by split <;> rfl)
  | commit b0 b1 => exact execCommit_journalMoves b0 b1 h
  | release b0 b1 => exact execRelease_journalMoves b0 b1 h
  | readJournal n => exact takeCommand_next_journalMoves h (Journal.Moves.deliver _ _)
  | drain => exact execDrain_journalMoves h
  | undrain => exact execUndrain_journalMoves h
  | status | stageClear | stageMember | stageOptions | readGroup | readSpread | readView | readCards | readCounters | warmReset =>
    exact takeCommand_next_journalMoves h (.of_eq rfl)
  | unknownCommand byte =>
    obtain rfl := Host.Outcome.next.inj h
    split
    · exact .of_eq rfl
    · exact JournalMoves.takeCommand (.of_eq rfl)
  | powerUp straps =>
    obtain rfl := Host.Outcome.next.inj h
    exact (JournalMoves.coldReset s).beginLoad straps
  | resetNAsserted =>
    obtain rfl := Host.Outcome.next.inj h
    split
    · exact .of_eq rfl
    · exact JournalMoves.coldReset (s.withPins _)
  | warmNAsserted => exact execWarmNAsserted_journalMoves h
  | chipSelectRelease r => exact execChipSelectRelease_journalMoves r h
  | resetNReleased straps | warmNReleased straps =>
    obtain rfl := Host.Outcome.next.inj h
    split
    · exact JournalMoves.beginLoad straps (t := s.withPins _) (.of_eq rfl)
    · exact .of_eq rfl
  | endOfLoading rom =>
    obtain rfl := Host.Outcome.next.inj h
    split
    · exact .finishLoading _ _ s
    · exact .finishLoading _ _ s
    all_goals exact .of_eq rfl
  | listenDeadline =>
    obtain rfl := Host.Outcome.next.inj h
    split
    · exact .before (t := s.advanceTo _) rfl (.enterServe _)
    all_goals exact .of_eq rfl

/-! ### The step (R158) -/

/-- Settles O1: the two branches of the step, the idle one with a time of one µs. -/
theorem stepRunsTheFrontCommandOrOneMicrosecond : Obligations.StepRunsTheFrontCommandOrOneMicrosecond := by
  refine ⟨fun c rest s front => ?_, fun s idle => ?_⟩
  · unfold step
    rw [front]
  · have ticked : step s = .next s.tick := by
      unfold step
      rw [idle]
    rw [ticked]
    rfl

theorem step_journalMoves (h : step s = .next t) : s.JournalMoves t := by
  obtain ⟨runs, ticks⟩ := stepRunsTheFrontCommandOrOneMicrosecond
  cases front : s.pending with
  | nil =>
    obtain rfl := Host.Outcome.next.inj ((ticks s front).symm.trans h)
    exact .of_eq rfl
  | cons c rest =>
    rw [runs c rest s front] at h
    exact .before (s.withPending_journal rest) (exec_journalMoves c h)

/-! ### The ring's law (R160 to R165) -/

/-- Settles O59: every step moves the ring by moves that keep its law; under it one append holds the record back or commits all, and the
ring then holds a record. -/
theorem journalCommitsAndKeepsItsLaw : Obligations.JournalCommitsAndKeepsItsLaw := by
  refine ⟨fun s t law h => Journal.Moves.law (step_journalMoves h) law, fun b s law => ?_⟩
  have after := law.append_heldBack ⟨b, s.clock.timeBase⟩
  refine ⟨Journal.append_records_eq law.size _, Journal.append_lost _ _ law.size, fun commits => ?_, fun opened few => ?_,
    Journal.append_flag _ _⟩
  · have emptied : (s.append b).journal.heldBack = [] := after.trans (if_neg fun held => by
      rcases commits with closed | full
      · rw [closed] at held
        cases held.1
      · omega)
    have records := Journal.append_records_ne_nil ⟨b, s.clock.timeBase⟩ s.journal
    refine ⟨emptied, (State.alertAsserted_iff _).2 fun empty => records ?_⟩
    exact List.append_eq_nil_iff.2 ⟨empty, emptied⟩
  · exact after.trans (if_pos ⟨opened, few⟩)

end Sys2Proof.Machine
end

section
/-! The release of a reset line and the load's limit (R168, R169), and what the loader makes of a read (R169, R170, R180, section 12.5). -/

namespace Sys2Proof.Machine

/-! ### The release of a reset line, and the load's limit (R168, R169) -/

/-- RESET_N goes high, and the load begins unless WARM_N is asserted. -/
theorem exec_resetNReleased (straps : CardId) (s : State) (low : s.pins.resetN = true) :
    exec (.resetNReleased straps) s = .next ((s.withPins { s.pins with resetN := false }).beginLoad straps) :=
  congrArg Host.Outcome.next (if_pos low)

/-- WARM_N goes high, and the load begins unless RESET_N is asserted. -/
theorem exec_warmNReleased (straps : CardId) (s : State) (low : s.pins.warmN = true) :
    exec (.warmNReleased straps) s = .next ((s.withPins { s.pins with warmN := false }).beginLoad straps) :=
  congrArg Host.Outcome.next (if_pos low)

/-- At the limit of a read the load has timed out. -/
theorem exec_loadTimeout (limit : Nat) (s : State) (reading : s.start.phase = .loading (.reading limit)) :
    exec .loadTimeout s = .next { s with
      clock := (s.advanceTo limit).clock
      start := { s.start with phase := .loading .timedOut } } := by
  simp only [exec, execLoadTimeout, reading]
  rfl

/-- Settles O54: after a release the other line alone says whether the load begins. -/
theorem releaseBeginsTheLoad : Obligations.ReleaseBeginsTheLoad := by
  refine fun straps s => ⟨fun resetN warmN => ?_, fun resetN warmN => ?_, fun resetN warmN => ⟨?_, ?_⟩,
    fun limit reading => exec_loadTimeout limit s reading⟩
  · rw [exec_resetNReleased straps s resetN, State.beginLoad_free straps _ (by simp [warmN])]
    rfl
  · rw [exec_warmNReleased straps s warmN, State.beginLoad_free straps _ (by simp [resetN])]
    rfl
  · exact (exec_resetNReleased straps s resetN).trans (congrArg Host.Outcome.next (State.beginLoad_held straps _ (.inr warmN)))
  · exact (exec_warmNReleased straps s warmN).trans (congrArg Host.Outcome.next (State.beginLoad_held straps _ (.inl resetN)))

/-! ### The items as stored (section 12.5) -/

/-- The number of two bytes, the high one first. -/
theorem twoBytes_toNat (bytes : List Byte) (i : Nat) :
    (twoBytes bytes i).toNat = 256 * (bytes.getD i 0#8).toNat + (bytes.getD (i + 1) 0#8).toNat := by
  exact (fields_toNat _ _).trans (congrArg (· + _) (Nat.mul_comm _ 256))

/-- The bit rate of a byte is that of its two low bits. -/
theorem bitRateOf_low (b : Byte) : bitRateOf (b.extractLsb' 0 2) =
    if b.toNat % 4 = 0 then .m1 else if b.toNat % 4 = 1 then .m2 else if b.toNat % 4 = 2 then .m4 else .m8 := by
  have low : (b.extractLsb' 0 2).toNat = b.toNat % 4 := by rw [BitVec.extractLsb'_toNat, Nat.shiftRight_zero]
  simp only [bitRateOf, BitVec.toNat_eq, low, BitVec.toNat_ofNat]

/-- The policy of a byte is that of its low bit. -/
theorem policy_low (b : Byte) :
    (if b.getLsbD 0 then Policy.localOnly else .hold) = if b.toNat % 2 = 0 then .hold else .localOnly := by
  rw [BitVec.getLsbD, Nat.testBit_zero]
  rcases Nat.mod_two_eq_zero_or_one b.toNat with e | e <;> rw [e] <;> rfl

/-- The magic value of an image is that of its first two bytes. -/
theorem twoBytes_eq_magic_iff (bytes : List Byte) (long : 2 ≤ bytes.length) :
    twoBytes bytes 0 = Config.magic ↔ bytes.take 2 = [0xD2#8, 0x24#8] := by
  obtain _ | ⟨a, _ | ⟨b, rest⟩⟩ := bytes
  · cases long
  · exact absurd long (Nat.not_succ_le_self 1)
  · have pair : a ++ b = Config.magic ↔ a = 0xD2#8 ∧ b = 0x24#8 := by
      have low := b.isLt
      simp only [BitVec.toNat_eq, fields_toNat, Config.magic, BitVec.toNat_ofNat]
      omega
    simpa [twoBytes] using pair

/-! ### The items in force (R170) -/

theorem clamp_of_le (lo : Nat) {hi x : Nat} (h : x ≤ hi) : clamp lo hi x = max lo x := by
  rw [clamp, Nat.min_eq_right h]

/-- A value brought within 10 and a higher bound on the step of 10 is first taken to its step. -/
theorem stepDown_clamp_eq (k x : Nat) (h : 1 ≤ k) :
    stepDown 10 10 (clamp 10 (10 * k) x) = max 10 (min (10 * k) (10 * (x / 10))) := by
  unfold stepDown clamp
  omega

/-- Steps 1 and 2 of R170: under a suppress threshold within its range, the range of the reuse threshold, up to 8190, has no effect of
its own, since the value next below the suppress threshold is within it. -/
theorem below_threshold_eq (reuse suppress : Nat) (pos : 1 ≤ suppress) (bound : suppress ≤ 8191) :
    (if clamp 0 8190 reuse < suppress then clamp 0 8190 reuse else suppress - 1) = min (suppress - 1) reuse := by
  unfold clamp
  split <;> omega

namespace Settings

variable (c : Settings)

/-- With no lower bound but 0, only what is above 2047 is changed. -/
theorem adjusted_charge : c.adjusted.charge = min 2047 c.charge := Nat.zero_max _

theorem adjusted_reuse : c.adjusted.reuse = min (c.adjusted.suppress - 1) c.reuse :=
  have suppress := clamp_bounds 1 8191 c.suppress (by decide)
  below_threshold_eq c.reuse _ suppress.1 suppress.2

theorem adjusted_decayTick : c.adjusted.decayTick = max 10 (min 2550 (10 * (c.decayTick / 10))) :=
  stepDown_clamp_eq 255 c.decayTick (by decide)

theorem adjusted_txWindow : c.adjusted.txWindow = max 10 (min 1000 (10 * (c.txWindow / 10))) :=
  stepDown_clamp_eq 100 c.txWindow (by decide)

/-- The upper bound of a one-byte item is no bound. -/
theorem adjusted_presenceWindow (byte : c.presenceWindow ≤ 255) :
    c.adjusted.presenceWindow = max (max 2 c.presenceWindow) (2 * c.adjusted.beaconInterval) :=
  congrArg (max · _) (clamp_of_le 2 byte)

theorem adjusted_settleTime (byte : c.settleTime ≤ 255) : c.adjusted.settleTime = max 1 c.settleTime := clamp_of_le 1 byte

end Settings

/-! ### The judgement (R169, R170, R180) -/

/-- A read of all the image's bytes: the magic value is judged first, then the CRC, and then the items are adjusted. -/
theorem judgeRead_image (bytes : List Byte) (whole : bytes.length = 27) : judgeRead (.image bytes) =
    if bytes.take 2 = [0xD2#8, 0x24#8] then
      if crcOf (byteBits (bytes.take 25)) = twoBytes bytes 25 then
        ((storedSettings bytes).adjusted,
          if (storedSettings bytes).adjusted = storedSettings bytes then none
          else some (.configClamped ((storedSettings bytes).marks (storedSettings bytes).adjusted)))
      else (Settings.default, some (.configDefaulted .badCrc))
    else (Settings.default, some (.configDefaulted .badMagic)) := by
  have magic := twoBytes_eq_magic_iff bytes (by omega)
  simp only [judgeRead, whole, Config.imageBytes, ne_eq, not_true, if_false, ite_not, magic]

/-- Settles O56: the judgement in its order, the items as stored, and of each item in force the range and step of its own. -/
theorem imageIsJudgedInOrder : Obligations.ImageIsJudgedInOrder := by
  refine ⟨rfl, rfl, ?_⟩
  intro bytes whole magicOk crcOk byte word x
  have stored : storedSettings bytes = x := by
    simp only [storedSettings, twoBytes_toNat, bitRateOf_low, policy_low]
    rfl
  have judged := judgeRead_image bytes whole
  rw [stored] at judged
  refine ⟨fun bad => judged.trans (if_neg bad), fun ok bad => judged.trans ((if_pos ok).trans (if_neg bad)),
    fun ok holds d used => ?_⟩
  have inForce := judged.trans ((if_pos ok).trans (if_pos holds))
  have law : d.Law := used ▸ judgeRead_law _
  rw [inForce] at used ⊢
  subst used
  have presence : x.presenceWindow ≤ 255 := Nat.le_of_lt_succ (bytes.getD 19 0#8).isLt
  have settle : x.settleTime ≤ 255 := Nat.le_of_lt_succ (bytes.getD 24 0#8).isLt
  exact ⟨law, rfl, rfl, rfl, rfl, rfl, rfl, x.adjusted_charge, rfl, x.adjusted_reuse, rfl, x.adjusted_decayTick, rfl,
    x.adjusted_presenceWindow presence, rfl, x.adjusted_txWindow, x.adjusted_settleTime settle, rfl⟩

end Sys2Proof.Machine
end

section
/-! The operations of the engine, the table port and the loader leave the queue of commands as it is (log 1); those of monitors, view and
bus do, as they leave `State.rest`. -/

namespace Sys2Proof.Machine

theorem State.pending_of_rest {s t : State} (h : t.rest = s.rest) : t.pending = s.pending :=
  show t.rest.pending = s.rest.pending from congrArg State.pending h

namespace State

variable (s : State)

/-! ### Shared operations -/

@[simp] theorem advanceTo_pending (t : Nat) : (s.advanceTo t).pending = s.pending := rfl
@[simp] theorem raiseDue_pending (f : FrameClass) : (s.raiseDue f).pending = s.pending := rfl

/-! ### The Repair Engine -/

@[simp] theorem completeJob_pending : s.completeJob.pending = s.pending := by rw [completeJob_eq]

@[simp] theorem walkOn_pending (job : Job) (position : Option GroupNo) : (s.walkOn job position).pending = s.pending := by
  unfold walkOn
  split
  · exact completeJob_pending s
  · rfl

@[simp] theorem boundary_pending (job : Job) (position : GroupNo) : (s.boundary job position).pending = s.pending := by
  obtain ⟨e, eq, -⟩ := s.boundary_spec job position
  rw [eq, withEngine_pending]

@[simp] theorem begin_pending (taken : Taken) : (s.begin taken).pending = s.pending := by
  cases taken with
  | urgent w => exact walkOn_pending _ _ _
  | sweep e => exact walkOn_pending _ _ _
  | calm w => exact walkOn_pending _ _ _
  | build g =>
    unfold begin beginBuild
    dsimp only
    split <;> rfl

@[simp] theorem reconcileGroup_pending (g : GroupNo) (snapshot : List Uplink) :
    (s.reconcileGroup g snapshot).pending = s.pending := by
  unfold reconcileGroup
  split
  · rfl
  · rw [handOutcome_eq, withStore_pending]

@[simp] theorem installGroup_pending (g : GroupNo) (r : Record) (snapshot : List Uplink) :
    (s.installGroup g r snapshot).pending = s.pending := by
  rw [installGroup_eq g r snapshot s rfl]
  rfl

@[simp] theorem releaseGroup_pending (g : GroupNo) : (s.releaseGroup g).pending = s.pending := by
  rw [releaseGroup_eq]
  rfl

/-! ### The table port -/

@[simp] theorem respond_pending (c : StatusCode) (data : List Byte) : (s.respond c data).pending = s.pending := rfl

@[simp] theorem setDraining_pending (b : Bool) : (s.setDraining b).pending = s.pending := pending_of_rest (setDraining_rest s b)

@[simp] theorem putPending_pending (g : GroupNo) (k : PendingKind) : (s.putPending g k).pending = s.pending := by
  cases flag : s.store.pendingFlag g with
  | true => rw [putPending_held flag]
  | false => rw [putPending_free flag]

/-- A command that comes in on the port does to the queue what its effect does, or nothing. -/
theorem takeCommand_pending_of (inPhase : Bool) (effect : State → State) (h : (effect s).pending = s.pending) :
    (s.takeCommand inPhase effect).pending = s.pending := by
  rcases s.takeCommand_cases inPhase effect with ⟨-, -, e⟩ | ⟨-, -, e⟩ | ⟨-, e⟩ | ⟨-, e⟩ <;> rw [e]
  · exact h
  · rfl

/-! ### The Start-up Loader -/

@[simp] theorem beginLoad_pending (straps : CardId) : (s.beginLoad straps).pending = s.pending := by
  unfold beginLoad
  split <;> rfl

@[simp] theorem finishLoading_pending (c : Settings) (noted : Option JournalBody) :
    (s.finishLoading c noted).pending = s.pending := by rw [finishLoading_eq]

@[simp] theorem enterServe_pending : s.enterServe.pending = s.pending := by
  obtain ⟨k, orders, -, eq⟩ := s.enterServe_eq
  rw [eq]

end State

end Sys2Proof.Machine
end

section
/-! Every command goes on and keeps the queue of commands (logs 1 and 3). -/

namespace Sys2Proof.Machine

variable {s t : State}

/-! ### The Repair Engine -/

theorem execArbiterTake_pending (h : execArbiterTake s = .next t) : t.pending = s.pending := by
  obtain rfl := Host.Outcome.next.inj h
  split
  · rfl
  · split <;> simp

theorem execReconcile_pending (time : SnapshotTime) (h : execReconcile time s = .next t) : t.pending = s.pending := by
  obtain rfl := Host.Outcome.next.inj h
  split
  · rfl
  · split <;> simp

theorem execInstallation_pending (h : execInstallation s = .next t) : t.pending = s.pending := by
  obtain rfl := Host.Outcome.next.inj h
  split <;> simp

theorem execSettleDeadline_pending (h : execSettleDeadline s = .next t) : t.pending = s.pending := by
  obtain rfl := Host.Outcome.next.inj h
  split
  · rfl
  · split
    · rfl
    · split <;> rfl

/-! ### The table port -/

/-- A command that comes in on the port, where its effect leaves the queue as it is. -/
theorem takeCommand_next_pending {inPhase : Bool} {effect : State → State}
    (h : Host.Outcome.next (s.takeCommand inPhase effect) = (.next t : Host.Outcome State Fault Refusal))
    (e : (effect s).pending = s.pending) : t.pending = s.pending :=
  Host.Outcome.next.inj h ▸ s.takeCommand_pending_of inPhase effect e

theorem execCommit_pending (b0 b1 : Byte) (h : execCommit b0 b1 s = .next t) : t.pending = s.pending := by
  refine takeCommand_next_pending h ?_
  split
  · rfl
  · split <;> simp

theorem execRelease_pending (b0 b1 : Byte) (h : execRelease b0 b1 s = .next t) : t.pending = s.pending := by
  refine takeCommand_next_pending h ?_
  split <;> simp

theorem execDrain_pending (h : execDrain s = .next t) : t.pending = s.pending := by
  refine takeCommand_next_pending h ?_
  split
  · rfl
  · split
    · rfl
    · simp

theorem execUndrain_pending (h : execUndrain s = .next t) : t.pending = s.pending := by
  refine takeCommand_next_pending h ?_
  dsimp only
  split <;> simp

theorem execUnknownCommand_pending (byte : Byte) (h : execUnknownCommand byte s = .next t) : t.pending = s.pending := by
  obtain rfl := Host.Outcome.next.inj h
  split
  · rfl
  · exact s.takeCommand_pending_of _ _ rfl

/-! ### Resets -/

theorem execWarmNAsserted_pending (h : execWarmNAsserted s = .next t) : t.pending = s.pending := by
  obtain rfl := Host.Outcome.next.inj h
  dsimp only
  split
  · rfl
  · split <;> rfl

theorem execChipSelectRelease_pending (r : Deselect) (h : execChipSelectRelease r s = .next t) : t.pending = s.pending := by
  obtain rfl := Host.Outcome.next.inj h
  have again : ∀ u : State, (if r.again = true then u.selectPort else u).pending = u.pending := fun u => by split <;> rfl
  refine (again _).trans ?_
  split
  · exact State.beginLoad_pending _ r.straps
  · rfl

/-! ### Every command -/

/-- A command keeps the queue: the commands of monitors, view and bus as they keep `State.rest`, the others as their operations do. -/
theorem exec_pending (c : Instr) (h : exec c s = .next t) : t.pending = s.pending := by
  have aside : t.rest = s.rest → t.pending = s.pending := State.pending_of_rest
  cases c with
  | lightFall p => exact aside (execLightFall_rest p h)
  | lightRise p => exact aside (execLightRise_rest p h)
  | lossTimerExpiry p => exact aside (execLossTimerExpiry_rest p h)
  | returnTimerExpiry p => exact aside (execReturnTimerExpiry_rest p h)
  | decayTick => exact aside (execDecayTick_rest h)
  | admissionDeadline u => exact aside (execAdmissionDeadline_rest u h)
  | presenceDeadline k => exact aside (execPresenceDeadline_rest k h)
  | frameReceived gap bits => exact aside (execFrameReceived_rest gap bits h)
  | frameStart gap edge => exact aside (execFrameStart_rest gap edge h)
  | arbitrationLost => exact aside (execArbitrationLost_rest h)
  | abort => exact aside (execAbort_rest h)
  | frameComplete => exact aside (execFrameComplete_rest h)
  | muteTimerExpiry => exact aside (execMuteTimerExpiry_rest h)
  | beaconTimerExpiry => exact aside (execBeaconTimerExpiry_rest h)
  | stuckLine stretch receiving => exact aside (execStuckLine_rest stretch receiving h)
  | faultRecovery recessive => exact aside (execFaultRecovery_rest recessive h)
  | arbiterTake => exact execArbiterTake_pending h
  | reconcile time => exact execReconcile_pending time h
  | installation => exact execInstallation_pending h
  | settleDeadline => exact execSettleDeadline_pending h
  | lookupRequest | answer | dropUplink | dropGroup | dropAll | loadTimeout =>
    obtain rfl := Host.Outcome.next.inj h
    split <;> rfl
  | commit b0 b1 => exact execCommit_pending b0 b1 h
  | release b0 b1 => exact execRelease_pending b0 b1 h
  | drain => exact execDrain_pending h
  | undrain => exact execUndrain_pending h
  | status | stageClear | stageMember | stageOptions | readGroup | readSpread | readView | readCards | readJournal | readCounters
  | warmReset => exact takeCommand_next_pending h rfl
  | unknownCommand byte => exact execUnknownCommand_pending byte h
  | powerUp straps =>
    obtain rfl := Host.Outcome.next.inj h
    exact s.coldReset.beginLoad_pending straps
  | resetNAsserted =>
    obtain rfl := Host.Outcome.next.inj h
    split <;> rfl
  | warmNAsserted => exact execWarmNAsserted_pending h
  | chipSelectRelease r => exact execChipSelectRelease_pending r h
  | resetNReleased | warmNReleased | endOfLoading | listenDeadline =>
    obtain rfl := Host.Outcome.next.inj h
    split <;> simp

/-- No command ends in a fault or a refusal: a row whose condition does not hold goes on with nothing changed (log 3). -/
theorem exec_goesOn (c : Instr) (s : State) : ∃ t, exec c s = .next t := by
  cases c <;> exact ⟨_, rfl⟩

/-- Settles O2: a command goes on, and every state it can go on to has the queue as it was. -/
theorem everyCommandGoesOnAndKeepsTheQueue : Obligations.EveryCommandGoesOnAndKeepsTheQueue := by
  intro c s
  obtain ⟨t, run⟩ := exec_goesOn c s
  exact ⟨t, run, exec_pending c run⟩

end Sys2Proof.Machine
end
